-- ==== Sys2Proof/Word.lean ====
section
/-! DEFINITION. The word types of the block (00_scope.md R7): every value is unsigned. -/

namespace Sys2Proof

/-- A 32-bit unsigned word, bit 0 the least significant (00_scope.md R7, 20_memory.md R46). -/
abbrev Word := BitVec 32

/-- One byte: LAST_ERR, CODE, and what a byte-wide host bridge carries. -/
abbrev Byte := BitVec 8

end Sys2Proof
end

