-- ==== Sys2Proof/Syntax.lean ====
section
/-! DEFINITION. The commands of the block, one constructor per row of spec/opcode_table.json. -/

namespace Sys2Proof

/-- A decoded command (30_encoding.md R63, R69). An operand has the width of its field (R61, R62);
whether its value is in range is checked when the command executes. -/
inductive Instr where
  /-- NOP (42_observe.md R120). -/
  | nop
  /-- CFG d: construct an engine of dimensionality d, field J (40_construct.md R87). -/
  | cfg (d : BitVec 16)
  /-- DRAW: the next point (41_draw.md R101). -/
  | draw
  /-- RDX j: one word of the current point, j in field J (42_observe.md R121). -/
  | rdx (j : BitVec 16)
  /-- RDV j, i: one direction number, j in field J and i in field I (42_observe.md R122). -/
  | rdv (j : BitVec 16) (i : BitVec 6)
  /-- RDN: the draw counter (42_observe.md R123). -/
  | rdn
  /-- STAT: the status and capability words (42_observe.md R124). -/
  | stat
  /-- REL: release the engine (40_construct.md R89). -/
  | rel
  /-- The table's row "(reserved)" and every other word that R69 decodes to ILLEGAL(op)
  (30_encoding.md R64, R65). `op` is bits 31:28; `rest` is bits 27:0, kept so that an illegal word
  can be encoded again; no meaning reads it. DESIGN CHOICE, safe: log entry 12. -/
  | illegal (op : BitVec 4) (rest : BitVec 28)
deriving DecidableEq, Repr

end Sys2Proof
end

