-- ==== Sys2Proof/WellFormed.lean ====
section
/-! DEFINITION. Which terms of `Instr` are some word's decoding. -/

namespace Sys2Proof

/-- The bits of 27:0 that may be non-zero for an opcode of the table: the column "fields used" of
30_encoding.md R63 (J is 15:0, I is 27:22; Z never). -/
def usedBits (op : BitVec 4) : BitVec 28 :=
  if op = 0x1#4 ∨ op = 0x3#4 then 0x000FFFF#28
  else if op = 0x4#4 then 0xFC0FFFF#28
  else 0#28

/-- An opcode the table gives no command (30_encoding.md R64). -/
def reservedOp (op : BitVec 4) : Bool := decide (8 ≤ op.toNat)

/-- Every operand value that fits its field is well formed (30_encoding.md R62). An illegal term is
well formed only where its opcode is reserved (R64) or a bit outside the fields used is 1 (R65):
otherwise its word is another command's. -/
def Instr.wellFormed : Instr → Bool
  | .nop => true
  | .cfg _ => true
  | .draw => true
  | .rdx _ => true
  | .rdv _ _ => true
  | .rdn => true
  | .stat => true
  | .rel => true
  | .illegal op rest => reservedOp op || decide (rest &&& ~~~(usedBits op) ≠ 0#28)

end Sys2Proof
end

