-- ==== Sys2Proof/Decode.lean ====
section
/-! DEFINITION. Decoding and encoding of command words (30_encoding.md R60 to R69), the opcode table
as data (R63), and the byte order of a host bridge (20_memory.md R47). -/

namespace Sys2Proof

/-! ## Fields of a command word (R61) -/

/-- OP, bits 31:28. -/
def fieldOp (w : Word) : BitVec 4 := w.extractLsb' 28 4

/-- I, bits 27:22. -/
def fieldI (w : Word) : BitVec 6 := w.extractLsb' 22 6

/-- Z, bits 21:16. -/
def fieldZ (w : Word) : BitVec 6 := w.extractLsb' 16 6

/-- J, bits 15:0. -/
def fieldJ (w : Word) : BitVec 16 := w.extractLsb' 0 16

/-- Bits 27:0, everything below the opcode. -/
def fieldRest (w : Word) : BitVec 28 := w.extractLsb' 0 28

/-! ## Decoding -/

/-- Decoding, total on every word (R69): the first line of the rule that applies. -/
def decode (w : Word) : Instr :=
  if fieldOp w = 0x0#4 ∧ fieldRest w = 0#28 then .nop
  else if fieldOp w = 0x1#4 ∧ fieldI w = 0#6 ∧ fieldZ w = 0#6 then .cfg (fieldJ w)
  else if fieldOp w = 0x2#4 ∧ fieldRest w = 0#28 then .draw
  else if fieldOp w = 0x3#4 ∧ fieldI w = 0#6 ∧ fieldZ w = 0#6 then .rdx (fieldJ w)
  else if fieldOp w = 0x4#4 ∧ fieldZ w = 0#6 then .rdv (fieldJ w) (fieldI w)
  else if fieldOp w = 0x5#4 ∧ fieldRest w = 0#28 then .rdn
  else if fieldOp w = 0x6#4 ∧ fieldRest w = 0#28 then .stat
  else if fieldOp w = 0x7#4 ∧ fieldRest w = 0#28 then .rel
  else .illegal (fieldOp w) (fieldRest w)

/-- A command word from its four fields, most significant first (R61). -/
def wordOfFields (op : BitVec 4) (i z : BitVec 6) (j : BitVec 16) : Word :=
  (op.setWidth 32 <<< 28) ||| (i.setWidth 32 <<< 22) ||| (z.setWidth 32 <<< 16) ||| j.setWidth 32

/-- A command word from its opcode and the 28 bits below it (R61). -/
def wordOfOpRest (op : BitVec 4) (rest : BitVec 28) : Word := (op.setWidth 32 <<< 28) ||| rest.setWidth 32

/-- The word of a command (R63, and R70's table). -/
def encode : Instr → Word
  | .nop => wordOfFields 0x0#4 0#6 0#6 0#16
  | .cfg d => wordOfFields 0x1#4 0#6 0#6 d
  | .draw => wordOfFields 0x2#4 0#6 0#6 0#16
  | .rdx j => wordOfFields 0x3#4 0#6 0#6 j
  | .rdv j i => wordOfFields 0x4#4 i 0#6 j
  | .rdn => wordOfFields 0x5#4 0#6 0#6 0#16
  | .stat => wordOfFields 0x6#4 0#6 0#6 0#16
  | .rel => wordOfFields 0x7#4 0#6 0#6 0#16
  | .illegal op rest => wordOfOpRest op rest

/-- The opcode a response echoes for a command (30_encoding.md R67, 60_exceptions.md R145). -/
def Instr.opcode : Instr → BitVec 4
  | .nop => 0x0#4
  | .cfg _ => 0x1#4
  | .draw => 0x2#4
  | .rdx _ => 0x3#4
  | .rdv _ _ => 0x4#4
  | .rdn => 0x5#4
  | .stat => 0x6#4
  | .rel => 0x7#4
  | .illegal op _ => op

/-! ## The opcode table as data (R63) -/

/-- One row of R63: a word `w` selects it when `w &&& mask = pattern`. -/
structure OpcodeRow where
  mnemonic : String
  pattern : Word
  mask : Word
deriving DecidableEq, Repr

/-- The rows of R63. -/
def opcodeTable : List OpcodeRow :=
  [ ⟨"NOP", 0x00000000#32, 0xFFFFFFFF#32⟩,
    ⟨"CFG", 0x10000000#32, 0xFFFF0000#32⟩,
    ⟨"DRAW", 0x20000000#32, 0xFFFFFFFF#32⟩,
    ⟨"RDX", 0x30000000#32, 0xFFFF0000#32⟩,
    ⟨"RDV", 0x40000000#32, 0xF03F0000#32⟩,
    ⟨"RDN", 0x50000000#32, 0xFFFFFFFF#32⟩,
    ⟨"STAT", 0x60000000#32, 0xFFFFFFFF#32⟩,
    ⟨"REL", 0x70000000#32, 0xFFFFFFFF#32⟩,
    ⟨"(reserved)", 0x80000000#32, 0x80000000#32⟩ ]

/-- The mnemonics of the rows a word selects (R63). -/
def selectedMnemonics (w : Word) : List String :=
  (opcodeTable.filter (fun r => w &&& r.mask == r.pattern)).map OpcodeRow.mnemonic

/-- A decoded command's mnemonic as the table spells it. -/
def Instr.mnemonic : Instr → String
  | .nop => "NOP"
  | .cfg _ => "CFG"
  | .draw => "DRAW"
  | .rdx _ => "RDX"
  | .rdv _ _ => "RDV"
  | .rdn => "RDN"
  | .stat => "STAT"
  | .rel => "REL"
  | .illegal _ _ => "(reserved)"

/-! ## The byte bridge (20_memory.md R47) -/

/-- Why a list of bytes gives no command. -/
inductive DecodeError where
  /-- Fewer than four bytes: a command is exactly one 32-bit word (R60). Raised by `decodeBytes`; safe. -/
  | truncatedWord
deriving DecidableEq, Repr

/-- The bytes of a word as a byte-wide bridge sends them, least significant first (20_memory.md R47). -/
def bridgeBytes (w : Word) : List Byte :=
  [w.extractLsb' 0 8, w.extractLsb' 8 8, w.extractLsb' 16 8, w.extractLsb' 24 8]

/-- The word of four bytes in the bridge's order (20_memory.md R47). -/
def wordOfBytes (b0 b1 b2 b3 : Byte) : Word :=
  b0.setWidth 32 ||| (b1.setWidth 32 <<< 8) ||| (b2.setWidth 32 <<< 16) ||| (b3.setWidth 32 <<< 24)

/-- Decoding from bytes in the bridge's order, with the bytes left over: one word per command (R60).
Log entry 15. -/
def decodeBytes : List Byte → Except DecodeError (Instr × List Byte)
  | b0 :: b1 :: b2 :: b3 :: rest => .ok (decode (wordOfBytes b0 b1 b2 b3), rest)
  | _ => .error .truncatedWord

/-- The instruction the decoder reads from a word numbered as spec/opcode_table.json numbers it.
Every command is one 32-bit word (R60), so a longer row is refused. Log entry 15. -/
def decodeTableWord (nbits w : Nat) : Option Instr :=
  if nbits ≤ 32 then some (decode (BitVec.ofNat 32 (w % 2 ^ nbits))) else none

end Sys2Proof
end

