-- ==== Sys2Proof/Config.lean ====
section
/-! DEFINITION. The configuration of the block, constant for its life (00_scope.md R5, R6), its
admission, and the free values the spec leaves open (93_implementation_defined.md). -/

namespace Sys2Proof

/-- One entry of the direction-number table (20_memory.md R41): degree `s`, coefficient word `a`,
seeds `m`, as the unbounded integers the table holds before admission bounds them. -/
structure DntEntry where
  s : Nat
  a : Nat
  m : List Nat
deriving DecidableEq, Repr, Inhabited

/-- Each seed of position `i`, counted from the given position, satisfies `1 <= M[i-1] < 2^i`
(20_memory.md R42 (4); positions are 1-based, 90_conflicts.md C5). -/
def seedsBounded : Nat → List Nat → Bool
  | _, [] => true
  | i, m :: rest => decide (1 ≤ m) && decide (m < 2 ^ i) && seedsBounded (i + 1) rest

/-- A well-formed entry (20_memory.md R42 (1) to (4)). Oddness of the seeds is not required. -/
def DntEntry.wellFormed (e : DntEntry) : Bool :=
  decide (1 ≤ e.s) && decide (e.s ≤ 32) && decide (e.a < 2 ^ (e.s - 1)) &&
    decide (e.m.length = e.s) && seedsBounded 1 e.m

/-- The three OPEN parameters (00_scope.md R5). `dnt` lists the table's entries for j = 1, 2, …;
an entry at index MAX_DIM or beyond is allowed and never read (20_memory.md R43, 90_conflicts.md C2). -/
structure Params where
  maxDim : Nat := 1
  dnt : List DntEntry := []
  row0Col32 : Word := 0#32
deriving DecidableEq, Repr, Inhabited

/-- The configuration is admitted (00_scope.md R6). -/
def Params.admitted (p : Params) : Bool :=
  decide (1 ≤ p.maxDim) && decide (p.maxDim ≤ 65535) && decide (p.maxDim - 1 ≤ p.dnt.length) &&
    (p.dnt.take (p.maxDim - 1)).all DntEntry.wellFormed

/-- An admitted configuration: no other can be built, so no claim is made about another
(00_scope.md R6; 92 D15). DEDUCED, safe: log entry 2. -/
structure Config extends Params where
  ok : toParams.admitted = true := by decide
deriving DecidableEq, Repr, Inhabited

/-- Why a configuration is refused. -/
inductive ConfigRefusal where
  /-- Not admitted by 00_scope.md R6; raised by `Config.ofParams`; safe. -/
  | notAdmitted
deriving DecidableEq, Repr

/-- A model refuses a configuration that is not admitted and creates no machine for it (00_scope.md R6). -/
def Config.ofParams (p : Params) : Except ConfigRefusal Config :=
  if h : p.admitted = true then .ok { toParams := p, ok := h } else .error .notAdmitted

/-- The configuration of the machine `State.reset` starts: OPEN, so nothing can evaluate it
(00_scope.md R5; 92 D5, D12, D13). DESIGN CHOICE, safe: log entry 1. -/
opaque Config.ofTheBlock : Config

/-- What cell (j, i) of V holds while it is unspecified, in the given epoch (10_state.md R27;
93 I6: any value). DESIGN CHOICE, safe: log entry 3. -/
opaque Config.unspecifiedV : (epoch j i : Nat) → Word

/-- What X[j] holds while it is unspecified, in the given epoch (10_state.md R28; 93 I6: any value).
DESIGN CHOICE, safe: log entry 3. -/
opaque Config.unspecifiedX : (epoch j : Nat) → Word

end Sys2Proof
end

