-- ==== Sys2Proof/Machine/State.lean ====
section
/-! DEFINITION. The state of the machine (10_state.md), as plain data, and its reset (R35). -/

namespace Sys2Proof.Machine

/-- The register STATE (10_state.md R23). The value 3 is never held, so it has no name here.
DEDUCED, safe: log entry 11. -/
inductive EngineState where
  /-- No engine exists. -/
  | empty
  /-- An engine exists and accepts draws. -/
  | ready
  /-- An engine exists and its counter is exhausted. -/
  | exhausted
deriving DecidableEq, Repr

/-- The status codes that are ever produced (60_exceptions.md R141). -/
inductive StatusCode where
  | ok
  | configError
  | counterExhausted
  | noEngine
  | illegalCommand
  | indexRange
deriving DecidableEq, Repr

/-- What the host does at the ports, and to `rst_n`, around one step (30_encoding.md R75, R76,
70_reset_and_hazards.md R160, R164). DESIGN CHOICE, safe: log entry 5. -/
inductive HostInput where
  /-- Takes every word of the earlier response and offers its next command. -/
  | run
  /-- Offers its next command and takes no word: accepted only if none is pending (R76). -/
  | offer
  /-- Takes the one word the block offers, and offers no command. -/
  | take
  /-- Takes no word and offers no command (60_exceptions.md R158). -/
  | wait
  /-- Holds `rst_n` low for an edge while no command is executing (R160). -/
  | reset
  /-- Takes the earlier response, has its next command accepted, and holds `rst_n` low before the
  command finishes (R160 (1)). Log entry 8. -/
  | resetInFlight
  /-- From now on offers commands and never takes a word (R164; 93 I12). -/
  | neverDrain
deriving DecidableEq, Repr

/-- The state of one block, its constant configuration, and the host's side of its ports. -/
structure State where
  /-- The constant configuration (00_scope.md R5). Log entry 1. -/
  cfg : Config
  /-- STATE (10_state.md R23). -/
  state : EngineState
  /-- DIM (10_state.md R24). -/
  dim : BitVec 16
  /-- N, the draw counter (10_state.md R25). -/
  n : Word
  /-- LAST_ERR (10_state.md R26). -/
  lastErr : Byte
  /-- V (10_state.md R27): row j lists columns 1 to 32. Only rows [0, DIM) are listed; log entry 3. -/
  v : List (List Word)
  /-- X (10_state.md R28). Only X[0] to X[DIM-1] are listed; log entry 3. -/
  x : List Word
  /-- HIST, ghost (10_state.md R29): no command reads it. Oldest word first. Log entry 10. -/
  hist : List (List Word)
  /-- Response words produced and not yet taken, next first (10_state.md R20, 30_encoding.md R76). -/
  rsp : List Word
  /-- The model's own: how often cells of V and X became unspecified, an argument of their free
  values. Log entry 3. -/
  epoch : Nat
  /-- The host's list of command words (10_state.md R22). -/
  program : List Word
  /-- The position in that list (10_state.md R22). -/
  k : Nat
  /-- What the host does next; an empty list stands for `run` for ever. Log entry 5. -/
  inputs : List HostInput
  /-- The response words the host has taken, oldest first (70_reset_and_hazards.md R168). -/
  taken : List Word
deriving DecidableEq, Repr

/-- Why a step stops. No command raises one (60_exceptions.md R140). -/
inductive Fault where
  /-- The port is stalled for good: the host never takes the pending response (70_reset_and_hazards.md
  R164; 93 I12: stuck). Raised by `step`, for the host input `neverDrain` only. Safe: the block itself
  makes no progress there. Log entry 7. -/
  | portStalled
deriving DecidableEq, Repr

/-- Why a step is refused. No arm of `exec` is refused. -/
inductive Refusal where
  /-- The instruction of this mnemonic has no meaning yet. Raised by `exec` alone; safe. -/
  | notModelled (mnemonic : String)
deriving DecidableEq, Repr

/-- The block right after reset (10_state.md R35), for a given configuration; the host holds no
commands yet (log entry 4). V and X list nothing: every cell is unspecified. -/
def State.resetWith (c : Config) : State where
  cfg := c
  state := .empty
  dim := 0#16
  n := 0#32
  lastErr := 0x00#8
  v := []
  x := []
  hist := []
  rsp := []
  epoch := 0
  program := []
  k := 0
  inputs := []
  taken := []

/-- The machine right after reset, of the block's own OPEN configuration (10_state.md R35). -/
def State.reset : State := State.resetWith Config.ofTheBlock

end Sys2Proof.Machine
end

