-- ==== Sys2Proof/Machine/Builder.lean ====
section
/-! DEFINITION. The direction_number_matrix_builder, a pure function of the configuration
(40_construct.md R80 to R86). -/

namespace Sys2Proof.Machine

/-- `ROM(j)`: table entry j, for j >= 1; dimension 0 has none (00_scope.md R8, 20_memory.md R43). -/
def romEntry (c : Config) (j : Nat) : Option DntEntry := if j = 0 then none else c.dnt[j - 1]?

/-- `bit_k(A) = (A >> (S-1-k)) & 1` (40_construct.md R84). -/
def coeffBit (e : DntEntry) (k : Nat) : Bool := (e.a >>> (e.s - 1 - k)) % 2 == 1

/-- Columns 1 to S of a row: `M[i-1] << (32 - i)` (40_construct.md R82). -/
def seedColumns (e : DntEntry) : List Word :=
  (List.range' 1 e.s).map (fun i => BitVec.ofNat 32 (e.m.getD (i - 1) 0) <<< (32 - i))

/-- The next column from the earlier ones, newest first, so that column i-k is element k-1
(40_construct.md R83). The default of `getD` is never reached: R85 (1), log entry 2. -/
def nextColumn (e : DntEntry) (newestFirst : List Word) : Word :=
  let b := newestFirst.getD (e.s - 1) 0#32
  (List.range' 1 (e.s - 1)).foldl
    (fun t k => if coeffBit e k then t ^^^ newestFirst.getD (k - 1) 0#32 else t) (b ^^^ (b >>> e.s))

/-- Adds `count` columns by the recurrence, in increasing order of i (40_construct.md R83). -/
def extendRow (e : DntEntry) : (count : Nat) → List Word → List Word
  | 0, newestFirst => newestFirst
  | count + 1, newestFirst => extendRow e count (nextColumn e newestFirst :: newestFirst)

/-- Columns 1 to 32 of a row j >= 1: its seeds, then the recurrence (40_construct.md R80). -/
def tableRow (e : DntEntry) : List Word := (extendRow e (32 - e.s) (seedColumns e).reverse).reverse

/-- Columns 1 to 32 of row 0: `1 << (32 - m)`, and ROW0_COL32 in column 32 (40_construct.md R81). -/
def rowZero (c : Config) : List Word :=
  (List.range' 1 31).map (fun m => 1#32 <<< (32 - m)) ++ [c.row0Col32]

/-- Row j of the matrix. An admitted configuration has every entry that is read (20_memory.md R43). -/
def buildRow (c : Config) (j : Nat) : List Word :=
  if j = 0 then rowZero c
  else match romEntry c j with
    | some e => tableRow e
    | none => []

/-- `BUILD(d)`: rows 0 to d-1 (40_construct.md R80). -/
def build (c : Config) (d : Nat) : List (List Word) := (List.range d).map (buildRow c)

end Sys2Proof.Machine
end

