-- ==== Sys2Proof/Machine/Flags.lean ====
section
/-! DEFINITION. The block has no condition flags (10_state.md R32): a command's outcome is the CODE of
its response word (30_encoding.md R67), and what lasts is visible in STATUS (10_state.md R30). -/

namespace Sys2Proof.Machine

/-- The 2-bit value of STATE (10_state.md R23). -/
def EngineState.bits : EngineState → BitVec 2
  | .empty => 0#2
  | .ready => 1#2
  | .exhausted => 2#2

/-- The numeric value of a status code (60_exceptions.md R141). -/
def StatusCode.toByte : StatusCode → Byte
  | .ok => 0x00#8
  | .configError => 0x01#8
  | .counterExhausted => 0x02#8
  | .noEngine => 0x03#8
  | .illegalCommand => 0x04#8
  | .indexRange => 0x05#8

/-- The response word `(LEN << 16) | (OP << 12) | CODE`: LEN 31:16, OP 15:12, zero 11:8, CODE 7:0
(30_encoding.md R67). -/
def respWord (len : Nat) (op : BitVec 4) (code : StatusCode) : Word :=
  (BitVec.ofNat 32 len <<< 16) ||| (op.setWidth 32 <<< 12) ||| code.toByte.setWidth 32

/-- The STATUS word: DIM 31:16, LAST_ERR 15:8, zero 7:2, STATE 1:0 (10_state.md R30). -/
def statusWord (s : State) : Word :=
  (s.dim.setWidth 32 <<< 16) ||| (s.lastErr.setWidth 32 <<< 8) ||| s.state.bits.setWidth 32

/-- The CAPS word: VERSION 0x01 in 31:24, MAX_BIT 32 in 23:16, MAX_DIM in 15:0 (10_state.md R31, R35). -/
def capsWord (c : Config) : Word := 0x01200000#32 ||| BitVec.ofNat 32 c.maxDim

end Sys2Proof.Machine
end

