-- ==== Sys2Proof/Machine/Operands.lean ====
section
/-! DEFINITION. Reading the operands and the indexed stores: the range checks of J and I
(30_encoding.md R62, 60_exceptions.md R142, R146), cells of V and X (20_memory.md R40), and the
column selector (00_scope.md R9, 41_draw.md R100). -/

namespace Sys2Proof.Machine

/-- J of CFG as a dimension count: `1 <= d <= MAX_DIM` (40_construct.md R88). -/
def dimCountOk (c : Config) (d : BitVec 16) : Bool := decide (d ≠ 0#16) && decide (d.toNat ≤ c.maxDim)

/-- J of RDX and RDV as a dimension index: `j < DIM` (60_exceptions.md R146). -/
def dimIndexOk (s : State) (j : BitVec 16) : Bool := decide (j.toNat < s.dim.toNat)

/-- I of RDV as a column: in [1, 32]; column 0 is not stored (42_observe.md R122, 92 D14). -/
def columnOk (i : BitVec 6) : Bool := decide (1 ≤ i.toNat) && decide (i.toNat ≤ 32)

/-- V[j][i]. A cell that is not listed, column 0 among them, is unspecified: it reads as a free
value, which no command shows (10_state.md R27; 93 I6). -/
def State.readV (s : State) (j i : Nat) : Word :=
  if i = 0 then Config.unspecifiedV s.epoch j i
  else ((s.v[j]?).bind (fun row => row[i - 1]?)).getD (Config.unspecifiedV s.epoch j i)

/-- X[j]. An element that is not listed is unspecified: it reads as a free value, which no command
shows (10_state.md R28; 93 I6). -/
def State.readX (s : State) (j : Nat) : Word := (s.x[j]?).getD (Config.unspecifiedX s.epoch j)

/-- The number of trailing one bits among the lowest `fuel` bits. -/
def trailingOnes : Nat → Word → Nat
  | 0, _ => 0
  | fuel + 1, w => if w.getLsbD 0 then 1 + trailingOnes fuel (w >>> 1) else 0

/-- The 1-indexed position of the lowest-order zero bit (00_scope.md R9); 33 for 0xFFFFFFFF. -/
def rzb (w : Word) : Nat := 1 + trailingOnes 32 w

/-- `gray(n) = n ^ (n >> 1)` (00_scope.md R10, the formula from general knowledge by the spec's own
mark). No command computes it. -/
def gray (n : Word) : Word := n ^^^ (n >>> 1)

end Sys2Proof.Machine
end

