-- ==== Sys2Proof/Machine/Ops.lean ====
section
/-! DEFINITION. The named operations over the state: ending a command with a response or an error
(00_scope.md R8), and what CFG, DRAW, REL and reset do to the engine. -/

namespace Sys2Proof.Machine

/-- The canonical form of the stores: exactly DIM rows of V, each of 32 columns, DIM elements of X and
DIM histories are listed; every other cell is unspecified (10_state.md R27 to R29). -/
def Memory.wf (s : State) : Bool :=
  decide (s.v.length = s.dim.toNat) && s.v.all (fun row => decide (row.length = 32)) &&
    decide (s.x.length = s.dim.toNat) && decide (s.hist.length = s.dim.toNat)

/-- `respond(OK)` after emitting the data words: one response word, then the data (00_scope.md R8,
30_encoding.md R67). LAST_ERR keeps its value (10_state.md R26). Words already pending stay ahead of
it: log entry 13. -/
def State.respond (s : State) (op : BitVec 4) (data : List Word) : State :=
  { s with rsp := s.rsp ++ respWord data.length op .ok :: data }

/-- `raise E`, the block's one way of taking an error: it writes LAST_ERR and responds with the code,
LEN 0, and changes nothing else (00_scope.md R8, 60_exceptions.md R147, R149). There is no handler, no
saved register and no return (R140, R150). -/
def State.raise (s : State) (op : BitVec 4) (code : StatusCode) : State :=
  { s with lastErr := code.toByte, rsp := s.rsp ++ [respWord 0 op code] }

/-- What a successful CFG does to the engine (40_construct.md R87). Cells of rows at or above d become
unspecified. -/
def State.construct (s : State) (d : BitVec 16) : State :=
  { s with
    state := .ready
    dim := d
    n := 0#32
    v := build s.cfg d.toNat
    x := List.replicate d.toNat 0#32
    hist := List.replicate d.toNat [0#32]
    epoch := s.epoch + 1 }

/-- `X_new[j] = X_old[j] ^ V[j][c]`, with `c = rzb(N)` (41_draw.md R100, R102). -/
def State.newWord (s : State) (j : Nat) : Word := s.readX j ^^^ s.readV j (rzb s.n)

/-- The new point: its words for j in [0, DIM), in ascending j (41_draw.md R101, R103). -/
def State.newPoint (s : State) : List Word := (List.range s.dim.toNat).map s.newWord

/-- What a successful DRAW does to the engine (41_draw.md R101). HIST[j], ghost, gets the new word; a
history that is not listed counts as empty (10_state.md R29). -/
def State.advance (s : State) : State :=
  { s with
    n := s.n + 1#32
    x := s.newPoint
    hist := (List.range s.dim.toNat).map (fun j => s.hist.getD j [] ++ [s.newWord j]) }

/-- The DRAW that would wrap N sets STATE to EXHAUSTED instead (41_draw.md R107). -/
def State.exhaust (s : State) : State := { s with state := .exhausted }

/-- What REL does to the engine (40_construct.md R89). Every cell becomes unspecified. -/
def State.release (s : State) : State :=
  { s with state := .empty, dim := 0#16, n := 0#32, v := [], x := [], hist := [], epoch := s.epoch + 1 }

/-- Hardware reset of the block (70_reset_and_hazards.md R160): the reset values of 10_state.md R35, and
no response word is left. The configuration is constant, and the host's side is the host's. -/
def State.hardwareReset (s : State) : State :=
  { s with
    state := .empty
    dim := 0#16
    n := 0#32
    lastErr := 0x00#8
    v := []
    x := []
    hist := []
    rsp := []
    epoch := s.epoch + 1 }

end Sys2Proof.Machine
end

