-- ==== Sys2Proof/Machine/Construct.lean ====
section
/-! DEFINITION. The construction family: CFG and REL (40_construct.md). -/

namespace Sys2Proof.Machine

/-- CFG d (40_construct.md R87): the operand check comes before anything else (R88). Legal in every
STATE; a failed CFG leaves the old engine as it was. -/
def execCfg (d : BitVec 16) (s : State) : Host.Outcome State Fault Refusal :=
  .next (if dimCountOk s.cfg d then (s.construct d).respond 0x1#4 [] else s.raise 0x1#4 .configError)

/-- REL (40_construct.md R89): succeeds in every STATE. -/
def execRel (s : State) : Host.Outcome State Fault Refusal := .next (s.release.respond 0x7#4 [])

end Sys2Proof.Machine
end

