-- ==== Sys2Proof/Machine/Draw.lean ====
section
/-! DEFINITION. The draw family: DRAW (41_draw.md). -/

namespace Sys2Proof.Machine

/-- DRAW (41_draw.md R101): the failures in the order of 60_exceptions.md R148 (R107, R108), else the
next point, returned as DIM words in ascending j (R103). -/
def execDraw (s : State) : Host.Outcome State Fault Refusal :=
  .next (match s.state with
    | .empty => s.raise 0x2#4 .noEngine
    | .exhausted => s.raise 0x2#4 .counterExhausted
    | .ready =>
      if s.n = 0xFFFFFFFF#32 then s.exhaust.raise 0x2#4 .counterExhausted
      else s.advance.respond 0x2#4 s.newPoint)

end Sys2Proof.Machine
end

