-- ==== Sys2Proof/Machine/Illegal.lean ====
section
/-! DEFINITION. Words that decode to ILLEGAL: the reserved opcodes, and non-zero bits outside the fields
used (30_encoding.md R64, R65). -/

namespace Sys2Proof.Machine

/-- An illegal command (60_exceptions.md R145): it fails with ILLEGAL_COMMAND in every STATE, echoing the
raw opcode; no other bit of the word is recorded. -/
def execIllegal (op : BitVec 4) (_rest : BitVec 28) (s : State) : Host.Outcome State Fault Refusal :=
  .next (s.raise op .illegalCommand)

end Sys2Proof.Machine
end

