-- ==== Sys2Proof/Machine/Observe.lean ====
section
/-! DEFINITION. The observation family: NOP, RDX, RDV, RDN and STAT (42_observe.md). -/

namespace Sys2Proof.Machine

/-- NOP (42_observe.md R120). -/
def execNop (s : State) : Host.Outcome State Fault Refusal := .next (s.respond 0x0#4 [])

/-- RDX j (42_observe.md R121). -/
def execRdx (j : BitVec 16) (s : State) : Host.Outcome State Fault Refusal :=
  .next (if s.state = .empty then s.raise 0x3#4 .noEngine
    else if dimIndexOk s j then s.respond 0x3#4 [s.readX j.toNat]
    else s.raise 0x3#4 .indexRange)

/-- RDV j, i (42_observe.md R122). -/
def execRdv (j : BitVec 16) (i : BitVec 6) (s : State) : Host.Outcome State Fault Refusal :=
  .next (if s.state = .empty then s.raise 0x4#4 .noEngine
    else if dimIndexOk s j && columnOk i then s.respond 0x4#4 [s.readV j.toNat i.toNat]
    else s.raise 0x4#4 .indexRange)

/-- RDN (42_observe.md R123). -/
def execRdn (s : State) : Host.Outcome State Fault Refusal :=
  .next (if s.state = .empty then s.raise 0x5#4 .noEngine else s.respond 0x5#4 [s.n])

/-- STAT (42_observe.md R124): it does not clear LAST_ERR. -/
def execStat (s : State) : Host.Outcome State Fault Refusal :=
  .next (s.respond 0x6#4 [statusWord s, capsWord s.cfg])

end Sys2Proof.Machine
end

