-- ==== Sys2Proof/Machine/Dispatch.lean ====
section
/-! DEFINITION. One arm per command: each calls its meaning. -/

namespace Sys2Proof.Machine

def exec (i : Instr) (s : State) : Host.Outcome State Fault Refusal :=
  match i with
  | .nop => Sys2Proof.Machine.execNop s
  | .cfg d => Sys2Proof.Machine.execCfg d s
  | .draw => Sys2Proof.Machine.execDraw s
  | .rdx j => Sys2Proof.Machine.execRdx j s
  | .rdv j col => Sys2Proof.Machine.execRdv j col s
  | .rdn => Sys2Proof.Machine.execRdn s
  | .stat => Sys2Proof.Machine.execStat s
  | .rel => Sys2Proof.Machine.execRel s
  | .illegal op rest => Sys2Proof.Machine.execIllegal op rest s

end Sys2Proof.Machine
end

