-- ==== Sys2Proof/Machine/Port.lean ====
section
/-! DEFINITION. The ports at the level of the transaction (30_encoding.md R75, R76, 00_scope.md R11): what
the host's next action brings to the block. -/

namespace Sys2Proof.Machine

/-- The block's outputs (30_encoding.md R75). `rspData` is absent while `rsp_valid` is 0; `rspLast` is 0 there,
which the spec leaves open. DESIGN CHOICE, unsafe: log entry 20. -/
structure PortOutputs where
  cmdReady : Bool
  rspValid : Bool
  rspData : Option Word
  rspLast : Bool
deriving DecidableEq, Repr

/-- The outputs between commands, for the level of `rst_n`: idle exactly when every word of the earlier
response has been taken (30_encoding.md R76); nothing is offered or accepted in reset
(70_reset_and_hazards.md R160 (4)). That `rsp_last` is 0 in reset, and whenever `rsp_valid` is 0, is the model's
choice: log entry 20. -/
def portOutputs (rstN : Bool) (s : State) : PortOutputs where
  cmdReady := rstN && s.rsp.isEmpty
  rspValid := rstN && !s.rsp.isEmpty
  rspData := if rstN then s.rsp.head? else none
  rspLast := rstN && s.rsp.length == 1

/-- The command word the host offers: the one at position k, if there is one (10_state.md R22). -/
def State.offered (s : State) : Option Word := s.program[s.k]?

/-- The host takes the one word the block offers (30_encoding.md R75, R76). -/
def State.takeWord (s : State) : State :=
  match s.rsp with
  | [] => s
  | w :: rest => { s with rsp := rest, taken := s.taken ++ [w] }

/-- The host takes every pending word, in order (30_encoding.md R76). Log entry 17. -/
def State.drain (s : State) : State := { s with rsp := [], taken := s.taken ++ s.rsp }

/-- The block has accepted the command at position k (10_state.md R22). -/
def State.accept (s : State) : State := { s with k := s.k + 1 }

/-- The host's next action is used up. -/
def State.nextInput (s : State) : State := { s with inputs := s.inputs.tail }

/-- What a step has before it once the host has acted. -/
inductive Presented where
  /-- No command executes in this step. -/
  | quiet (s : State)
  /-- The block has accepted the command word `w`, in state `s`. -/
  | command (w : Word) (s : State)
  /-- The port is stalled for good. -/
  | stalled
deriving DecidableEq, Repr

/-- The host drains the earlier response and offers its next command. When its list is at an end there
is nothing to execute, and nothing changes (10_state.md R22, 60_exceptions.md R158): log entry 6. -/
def State.presentRun (s : State) : Presented :=
  match s.offered with
  | none => .quiet s
  | some w => .command w s.drain.accept

/-- The host offers its next command and takes nothing: it is accepted only when the block is idle
(30_encoding.md R76). -/
def State.presentOffer (s : State) : Presented :=
  match s.rsp with
  | [] => s.presentRun
  | _ :: _ => .quiet s

/-- `rst_n` falls after a command was accepted and before it finished: the command has no effect
(70_reset_and_hazards.md R160 (1)). -/
def State.presentResetInFlight (s : State) : Presented :=
  match s.offered with
  | none => .quiet s.hardwareReset
  | some _ => .quiet s.drain.accept.hardwareReset

/-- The host's next action, applied (log entry 5). -/
def State.present (s : State) : Presented :=
  match s.inputs with
  | [] => s.presentRun
  | .run :: _ => s.nextInput.presentRun
  | .offer :: _ => s.nextInput.presentOffer
  | .take :: _ => .quiet s.nextInput.takeWord
  | .wait :: _ => .quiet s.nextInput
  | .reset :: _ => .quiet s.nextInput.hardwareReset
  | .resetInFlight :: _ => s.nextInput.presentResetInFlight
  | .neverDrain :: _ =>
    match s.rsp with
    | [] => s.presentRun
    | _ :: _ => .stalled

/-- The command list with the word `w` at position k, the words around it as they were (a position beyond
the list's end is reached over NOP words). -/
def programWith (program : List Word) (k : Nat) (w : Word) : List Word :=
  program.take k ++ List.replicate (k - program.length) 0#32 ++ w :: program.drop (k + 1)

end Sys2Proof.Machine
end

