-- ==== Sys2Proof/Machine/Step.lean ====
section
/-! DEFINITION. One step: the host acts, and where a command is accepted it is decoded and executed whole
(00_scope.md R11, 20_memory.md R53). -/

namespace Sys2Proof.Machine

/-- One step (00_scope.md R11). -/
def step (s : State) : Host.Outcome State Fault Refusal :=
  match s.present with
  | .quiet s' => .next s'
  | .command w s' => exec (decode w) s'
  | .stalled => .fault .portStalled

/-- `s` with the word the host offers next set to `w` (its bits above `nbits` zero), the host draining and
offering it at the very next step. It stands for the host's loading of a command: log entry 4. -/
def State.withFetchWord (s : State) (nbits w : Nat) : State :=
  { s with program := programWith s.program s.k (BitVec.ofNat 32 (w % 2 ^ nbits)), inputs := [] }

end Sys2Proof.Machine
end

