-- ==== Sys2Proof/Machine/Assembler.lean ====
section
/-! DEFINITION. The assembler's syntax (30_encoding.md R70, R71), on lists of characters. Log entry 16. -/

namespace Sys2Proof.Machine

/-- One line's command, its operands as the integers written (R70). -/
inductive AsmLine where
  | nop
  | cfg (d : Nat)
  | draw
  | rdx (j : Nat)
  | rdv (j i : Nat)
  | rdn
  | stat
  | rel
  /-- `.word w`: the word verbatim. -/
  | word (w : Nat)
deriving DecidableEq, Repr

/-- Why the assembler refuses a line; each is raised here only, and safe. -/
inductive AsmError where
  /-- No command of R70 has this name: there are no pseudo-instructions (R71). -/
  | unknownMnemonic
  /-- The command takes another number of operands. -/
  | operandCount
  /-- An operand is neither decimal nor hexadecimal. -/
  | notANumber
  /-- An operand does not fit its field: it is refused, not truncated (R70). -/
  | operandTooWide
deriving DecidableEq, Repr

/-- The word of a line (R70's table). -/
def assemble : AsmLine → Except AsmError Word
  | .nop => .ok (encode .nop)
  | .cfg d => if d < 2 ^ 16 then .ok (encode (.cfg (BitVec.ofNat 16 d))) else .error .operandTooWide
  | .draw => .ok (encode .draw)
  | .rdx j => if j < 2 ^ 16 then .ok (encode (.rdx (BitVec.ofNat 16 j))) else .error .operandTooWide
  | .rdv j i =>
    if j < 2 ^ 16 ∧ i < 2 ^ 6 then .ok (encode (.rdv (BitVec.ofNat 16 j) (BitVec.ofNat 6 i)))
    else .error .operandTooWide
  | .rdn => .ok (encode .rdn)
  | .stat => .ok (encode .stat)
  | .rel => .ok (encode .rel)
  | .word w => if w < 2 ^ 32 then .ok (BitVec.ofNat 32 w) else .error .operandTooWide

/-! ## Text -/

/-- White space inside a line. -/
def asmSpace (c : Char) : Bool := c == ' ' || c == '\t' || c == '\r'

/-- Lower case of a Latin capital: mnemonics are case-insensitive (R70). -/
def asmLower (c : Char) : Char := if 65 ≤ c.toNat ∧ c.toNat ≤ 90 then Char.ofNat (c.toNat + 32) else c

/-- Without white space at either end. -/
def asmTrim (cs : List Char) : List Char :=
  ((cs.dropWhile asmSpace).reverse.dropWhile asmSpace).reverse

/-- The pieces between occurrences of a separator. -/
def asmSplit (sep : Char) : List Char → List (List Char)
  | [] => [[]]
  | c :: cs =>
    match asmSplit sep cs with
    | [] => [[c]]
    | piece :: pieces => if c = sep then [] :: piece :: pieces else (c :: piece) :: pieces

/-- A digit's value in a base of at most 16. -/
def asmDigit (base : Nat) (c : Char) : Option Nat :=
  let n := (asmLower c).toNat
  let v := if 48 ≤ n ∧ n ≤ 57 then n - 48 else if 97 ≤ n ∧ n ≤ 102 then n - 87 else 16
  if v < base then some v else none

/-- The value of one or more digits, the first the most significant. -/
def asmDigits (base : Nat) : (soFar : Nat) → List Char → Option Nat
  | _, [] => none
  | soFar, [c] => (asmDigit base c).map (fun v => soFar * base + v)
  | soFar, c :: cs => (asmDigit base c).bind (fun v => asmDigits base (soFar * base + v) cs)

/-- An operand: an unsigned decimal integer, or a hexadecimal one with the prefix `0x` (R70). -/
def asmNumber : List Char → Option Nat
  | '0' :: 'x' :: cs => asmDigits 16 0 cs
  | cs => asmDigits 10 0 cs

/-- The operands of a line, separated by commas. -/
def asmOperands (cs : List Char) : Option (List Nat) :=
  if cs = [] then some [] else (asmSplit ',' cs).mapM (fun piece => asmNumber (asmTrim piece))

/-- The forms of R70, from a lower-case mnemonic and the operands. -/
def asmForm (mnemonic : List Char) (operands : List Nat) : Except AsmError AsmLine :=
  if mnemonic = ['n', 'o', 'p'] then (match operands with | [] => .ok .nop | _ => .error .operandCount)
  else if mnemonic = ['c', 'f', 'g'] then (match operands with | [d] => .ok (.cfg d) | _ => .error .operandCount)
  else if mnemonic = ['d', 'r', 'a', 'w'] then (match operands with | [] => .ok .draw | _ => .error .operandCount)
  else if mnemonic = ['r', 'd', 'x'] then (match operands with | [j] => .ok (.rdx j) | _ => .error .operandCount)
  else if mnemonic = ['r', 'd', 'v'] then (match operands with | [j, i] => .ok (.rdv j i) | _ => .error .operandCount)
  else if mnemonic = ['r', 'd', 'n'] then (match operands with | [] => .ok .rdn | _ => .error .operandCount)
  else if mnemonic = ['s', 't', 'a', 't'] then (match operands with | [] => .ok .stat | _ => .error .operandCount)
  else if mnemonic = ['r', 'e', 'l'] then (match operands with | [] => .ok .rel | _ => .error .operandCount)
  else if mnemonic = ['.', 'w', 'o', 'r', 'd'] then (match operands with | [w] => .ok (.word w) | _ => .error .operandCount)
  else .error .unknownMnemonic

/-- One line: the comment from `;` on is dropped, and a line with nothing left gives no command (R70). -/
def asmParseLine (line : List Char) : Except AsmError (Option AsmLine) :=
  let body := asmTrim (line.takeWhile (fun c => c != ';'))
  if body = [] then .ok none
  else
    let mnemonic := body.takeWhile (fun c => !asmSpace c)
    match asmOperands (asmTrim (body.drop mnemonic.length)) with
    | none => .error .notANumber
    | some operands => (asmForm (mnemonic.map asmLower) operands).map some

/-- The words of a program's lines, in order; the first refused line refuses the program. -/
def assembleLines : List (List Char) → Except AsmError (List Word)
  | [] => .ok []
  | line :: lines =>
    match asmParseLine line, assembleLines lines with
    | .error e, _ => .error e
    | .ok none, r => r
    | .ok (some l), r =>
      match assemble l, r with
      | .error e, _ => .error e
      | .ok _, .error e => .error e
      | .ok w, .ok ws => .ok (w :: ws)

/-- The words of a program's text, one command a line (R70). -/
def assembleText (text : List Char) : Except AsmError (List Word) := assembleLines (asmSplit '\n' text)

end Sys2Proof.Machine
end

