-- ==== Sys2Proof/Machine/Output.lean ====
section
/-! DEFINITION. What a data word of DRAW stands for (41_draw.md R104) and the host's exact conversion to
binary64 (R105). No command reads either: the block sends the words alone (R103). Log entry 19. -/

namespace Sys2Proof.Machine

/-- The coordinate a word stands for: `X / 2^32` (41_draw.md R104, 20_memory.md R46). -/
def coordinate (w : Word) : ℚ := (w.toNat : ℚ) / 2 ^ 32

/-- The binary64 pattern of a coordinate, as R105 gives it, with `p = floor(log2 X)`. -/
def toBinary64 (w : Word) : BitVec 64 :=
  if w = 0#32 then 0#64
  else
    let p := Nat.log2 w.toNat
    BitVec.ofNat 64 (((991 + p) <<< 52) ||| ((w.toNat <<< (52 - p)) % 2 ^ 52))

/-- The number a binary64 pattern stands for: sign, 11-bit exponent, 52-bit fraction, and none for an
infinity or a NaN (the layout R105 rests on; PRESUMED by the spec, 93 G3). -/
def binary64Value (b : BitVec 64) : Option ℚ :=
  let sign : ℚ := if b.getLsbD 63 then -1 else 1
  let e := (b.extractLsb' 52 11).toNat
  let f : ℚ := ((b.extractLsb' 0 52).toNat : ℚ)
  if e = 2047 then none
  else if e = 0 then some (sign * f * 2 ^ (-1074 : ℤ))
  else some (sign * (2 ^ 52 + f) * 2 ^ ((e : ℤ) - 1075))

end Sys2Proof.Machine
end

