-- ==== Sys2Proof/Safety.lean ====
section
/-! DEFINITION. The terms in which claims are written: what a command leaves unchanged, how a reply
looks, the invariants of 10_state.md R34, and runs of draws. -/

namespace Sys2Proof.Machine

/-! ## Frames and replies -/

/-- The engine is unchanged: STATE, DIM, N, all of V and X (what is listed, and the epoch of what is
not), and HIST. -/
structure SameEngine (s t : State) : Prop where
  state : t.state = s.state
  dim : t.dim = s.dim
  n : t.n = s.n
  v : t.v = s.v
  x : t.x = s.x
  hist : t.hist = s.hist
  epoch : t.epoch = s.epoch

/-- The configuration and the host's side are unchanged. -/
structure SameOutside (s t : State) : Prop where
  cfg : t.cfg = s.cfg
  program : t.program = s.program
  k : t.k = s.k
  inputs : t.inputs = s.inputs
  taken : t.taken = s.taken

/-- A command went from `s` to `t`, answering exactly the words given and leaving LAST_ERR as given. -/
structure Reply (s t : State) (words : List Word) (err : Byte) : Prop where
  rsp : t.rsp = s.rsp ++ words
  lastErr : t.lastErr = err
  outside : SameOutside s t

/-- In every state the word fails with ILLEGAL_COMMAND, echoing its bits 31:28, and does nothing else
(60_exceptions.md R145). -/
def RejectedAsIllegal (w : Word) : Prop :=
  ∀ s, ∃ t, exec (decode w) s = .next t ∧
    Reply s t [((fieldOp w).setWidth 32 <<< 12) ||| 0x00000004#32] 0x04#8 ∧ SameEngine s t

/-! ## Fields of a response word (30_encoding.md R67) -/

def respLen (r : Word) : Nat := (r.extractLsb' 16 16).toNat

def respOp (r : Word) : BitVec 4 := r.extractLsb' 12 4

def respReserved (r : Word) : BitVec 4 := r.extractLsb' 8 4

def respCode (r : Word) : Byte := r.extractLsb' 0 8

/-! ## Invariants (10_state.md R34) -/

/-- STATE, DIM, N and LAST_ERR agree: R34 (a), (b), (c); N is 0 in EMPTY (R25); LAST_ERR holds a code
that is produced (60_exceptions.md R141). -/
structure Lifecycle (s : State) : Prop where
  emptyIffDimZero : s.state = .empty ↔ s.dim = 0#16
  dimInRange : s.state ≠ .empty → 1 ≤ s.dim.toNat ∧ s.dim.toNat ≤ s.cfg.maxDim
  exhaustedAtLimit : s.state = .exhausted → s.n = 0xFFFFFFFF#32
  emptyCounter : s.state = .empty → s.n = 0#32
  errCode : s.lastErr.toNat ≤ 5

/-- The stores are in canonical form and V is the builder's matrix (10_state.md R27, R28). -/
structure Storage (s : State) : Prop where
  wf : Memory.wf s = true
  matrix : s.v = build s.cfg s.dim.toNat

/-- `len(HIST[j]) = N + 1` and `last(HIST[j]) = X[j]` (10_state.md R29). -/
def History (s : State) : Prop :=
  ∀ j, j < s.dim.toNat →
    ∃ h, s.hist[j]? = some h ∧ h.length = s.n.toNat + 1 ∧ h.getLast? = some (s.readX j)

/-- The XOR of the columns b+1 over the set bits b of gray(n) (41_draw.md R106). -/
def closedPoint (column : Nat → Word) (n : Word) : Word :=
  (List.range 32).foldl (fun acc b => if (gray n).getLsbD b then acc ^^^ column (b + 1) else acc) 0#32

/-- Every X[j] has its closed form: R34 (e), 41_draw.md R106. -/
def ClosedForm (s : State) : Prop :=
  ∀ j, j < s.dim.toNat → s.readX j = closedPoint (s.readV j) s.n

/-- The invariant of every reachable state. -/
structure State.Inv (s : State) : Prop where
  lifecycle : Lifecycle s
  storage : Storage s
  history : History s
  closedForm : ClosedForm s

/-! ## Safe steps and runs of draws -/

/-- A step is safe when it answers a next state: the port is not stalled. -/
def State.Safe (s : State) : Prop := ∃ t, step s = .next t

/-- `s` is the state a successful CFG d left, on a block of configuration `c` (40_construct.md R87). -/
def JustConstructed (c : Config) (d : BitVec 16) (s : State) : Prop :=
  d ≠ 0#16 ∧ d.toNat ≤ c.maxDim ∧ ∃ s₀, s₀.cfg = c ∧ exec (.cfg d) s₀ = .next s

/-- `Draws s m t`: from `s`, `m` successful DRAWs in a row lead to `t` (00_scope.md R12, "Draw"). -/
inductive Draws (s : State) : Nat → State → Prop where
  | none : Draws s 0 s
  | more {m : Nat} {t u : State} : Draws s m t → t.state = .ready → t.n ≠ 0xFFFFFFFF#32 →
      exec .draw t = .next u → Draws s (m + 1) u

/-- Two states agree on everything a command may show: the configuration, the registers, the pending
words, and the cells of V and X in rows [0, DIM) and columns [1, 32] (10_state.md R27, R28). -/
structure SameReadable (s s' : State) : Prop where
  cfg : s'.cfg = s.cfg
  state : s'.state = s.state
  dim : s'.dim = s.dim
  n : s'.n = s.n
  lastErr : s'.lastErr = s.lastErr
  rsp : s'.rsp = s.rsp
  cells : ∀ j, j < s.dim.toNat → ∀ i, 1 ≤ i → i ≤ 32 → s'.readV j i = s.readV j i
  point : ∀ j, j < s.dim.toNat → s'.readX j = s.readX j

end Sys2Proof.Machine
end

