-- ==== Sys2Proof/Certificates/Slice0/Obligations.lean ====
section
/-! DEFINITION. The statements for the provers, in the order of OBLIGATIONS.json. -/

open Sys2Proof Sys2Proof.Machine

/-! ## Encoding -/

/-- Decoding an encoded well-formed command gives it back, at every operand value (30_encoding.md R61 to
R63, R69). -/
def Obligations.DecodeOfEncodeIsIdentity : Prop :=
  ∀ i : Instr, i.wellFormed = true → decode (encode i) = i

/-- Every word decodes to one well-formed command, and that command's word is the word: no bit is dropped
(30_encoding.md R69; that an illegal command keeps all its bits is log entry 12). -/
def Obligations.EncodeOfDecodeIsIdentity : Prop :=
  ∀ w : Word, (decode w).wellFormed = true ∧ encode (decode w) = w

/-- 30_encoding.md R63, R69: the rows a word selects by `(w & mask) == match` are the one row of its decoded
command's mnemonic, and none for an illegal word whose opcode is not reserved. -/
def Obligations.OpcodeTableSelectsDecodedRow : Prop :=
  ∀ w : Word,
    ((∀ op rest, decode w ≠ .illegal op rest) → selectedMnemonics w = [(decode w).mnemonic]) ∧
    (∀ op rest, decode w = .illegal op rest → 8 ≤ op.toNat → selectedMnemonics w = ["(reserved)"]) ∧
    (∀ op rest, decode w = .illegal op rest → op.toNat < 8 → selectedMnemonics w = [])

/-- Words of spec/95_test_vectors.md V1 decode as that table says. -/
def Obligations.SpecWordsDecode : Prop :=
  decode 0x00000000#32 = .nop ∧ decode 0x10000003#32 = .cfg 3#16 ∧ decode 0x20000000#32 = .draw ∧
  decode 0x30000005#32 = .rdx 5#16 ∧ decode 0x40400000#32 = .rdv 0#16 1#6 ∧
  decode 0x4FC0FFFF#32 = .rdv 65535#16 63#6 ∧ decode 0x50000000#32 = .rdn ∧ decode 0x60000000#32 = .stat ∧
  decode 0x70000000#32 = .rel ∧ decode 0x80000000#32 = .illegal 8#4 0#28

/-- 20_memory.md R47: a bridge that sends a word's four bytes least significant first delivers the word's
command, and less than four bytes deliver none. -/
def Obligations.ByteBridgeIsLittleEndian : Prop :=
  (∀ (w : Word) (later : List Byte), decodeBytes (bridgeBytes w ++ later) = .ok (decode w, later)) ∧
  (∀ (w : Word) (i : Nat), i < 4 → ∃ b, (bridgeBytes w)[i]? = some b ∧ b.toNat = w.toNat / 256 ^ i % 256) ∧
  (∀ bytes : List Byte, bytes.length < 4 → decodeBytes bytes = .error .truncatedWord)

/-- 30_encoding.md R70's table of words: an operand that fits its field is encoded whole, and one that does
not is refused, never truncated. -/
def Obligations.AssemblerEncodesOrRefuses : Prop :=
  assemble .nop = .ok 0x00000000#32 ∧ assemble .draw = .ok 0x20000000#32 ∧
  assemble .rdn = .ok 0x50000000#32 ∧ assemble .stat = .ok 0x60000000#32 ∧
  assemble .rel = .ok 0x70000000#32 ∧
  (∀ d, d < 65536 → ∃ w, assemble (.cfg d) = .ok w ∧ w.toNat = 0x10000000 + d ∧
    decode w = .cfg (BitVec.ofNat 16 d)) ∧
  (∀ j, j < 65536 → ∃ w, assemble (.rdx j) = .ok w ∧ w.toNat = 0x30000000 + j ∧
    decode w = .rdx (BitVec.ofNat 16 j)) ∧
  (∀ j i, j < 65536 → i < 64 → ∃ w, assemble (.rdv j i) = .ok w ∧
    w.toNat = 0x40000000 + i * 2 ^ 22 + j ∧ decode w = .rdv (BitVec.ofNat 16 j) (BitVec.ofNat 6 i)) ∧
  (∀ w, w < 2 ^ 32 → assemble (.word w) = .ok (BitVec.ofNat 32 w)) ∧
  (∀ d, 65536 ≤ d → assemble (.cfg d) = .error .operandTooWide ∧
    assemble (.rdx d) = .error .operandTooWide ∧ ∀ i, assemble (.rdv d i) = .error .operandTooWide) ∧
  (∀ j i, 64 ≤ i → assemble (.rdv j i) = .error .operandTooWide) ∧
  (∀ w, 2 ^ 32 ≤ w → assemble (.word w) = .error .operandTooWide)

/-! ## The configuration -/

/-- 00_scope.md R6 with 20_memory.md R42: a configuration is built exactly when MAX_DIM is in [1, 65535] and
every entry j in [1, MAX_DIM-1] exists and meets the four conditions; otherwise it is refused. -/
def Obligations.ConfigurationAdmittedExactly : Prop :=
  ∀ p : Params,
    ((1 ≤ p.maxDim ∧ p.maxDim ≤ 65535 ∧ ∀ j, 1 ≤ j → j < p.maxDim →
      ∃ e, p.dnt[j - 1]? = some e ∧ 1 ≤ e.s ∧ e.s ≤ 32 ∧ e.a < 2 ^ (e.s - 1) ∧ e.m.length = e.s ∧
        ∀ i, 1 ≤ i → i ≤ e.s → ∃ m, e.m[i - 1]? = some m ∧ 1 ≤ m ∧ m < 2 ^ i) →
      ∃ c, Config.ofParams p = .ok c ∧ c.toParams = p) ∧
    (∀ c, Config.ofParams p = .ok c →
      1 ≤ p.maxDim ∧ p.maxDim ≤ 65535 ∧ ∀ j, 1 ≤ j → j < p.maxDim →
      ∃ e, p.dnt[j - 1]? = some e ∧ 1 ≤ e.s ∧ e.s ≤ 32 ∧ e.a < 2 ^ (e.s - 1) ∧ e.m.length = e.s ∧
        ∀ i, 1 ≤ i → i ≤ e.s → ∃ m, e.m[i - 1]? = some m ∧ 1 ≤ m ∧ m < 2 ^ i)

/-- 20_memory.md R45, 00_scope.md R6: no step changes the configuration or the host's list of commands. -/
def Obligations.ConfigurationIsConstant : Prop :=
  ∀ s t : State, step s = .next t → t.cfg = s.cfg ∧ t.program = s.program

/-! ## Responses and errors -/

/-- 30_encoding.md R67: every word offered to the block, legal or not, is answered by exactly one response
word and LEN data words, its fields LEN, the echoed bits 31:28, zero, and a code of 60_exceptions.md R141. -/
def Obligations.EveryWordAnsweredByOneResponse : Prop :=
  ∀ (w : Word) (s : State), ∃ t r data, exec (decode w) s = .next t ∧ t.rsp = s.rsp ++ r :: data ∧
    respLen r = data.length ∧ respOp r = fieldOp w ∧ respReserved r = 0#4 ∧ (respCode r).toNat ≤ 5

/-- 30_encoding.md R68: no data on an error; on OK the length is the command's. -/
def Obligations.ResponseLengthPerCommand : Prop :=
  ∀ (i : Instr) (s : State), ∃ t r data, exec i s = .next t ∧ t.rsp = s.rsp ++ r :: data ∧
    respLen r = data.length ∧
    (respCode r ≠ 0x00#8 → data.length = 0) ∧
    (respCode r = 0x00#8 → data.length = (match i with
      | .nop => 0
      | .cfg _ => 0
      | .draw => t.dim.toNat
      | .rdx _ => 1
      | .rdv _ _ => 1
      | .rdn => 1
      | .stat => 2
      | .rel => 0
      | .illegal _ _ => 0))

/-- 60_exceptions.md R141 and R148: each code is reported exactly when its cause is the first that applies;
ILLEGAL_COMMAND is decided from the word alone. -/
def Obligations.StatusCodeTellsFirstCause : Prop :=
  (∀ w : Word, (∃ op rest, decode w = .illegal op rest) ↔
    (8 ≤ (fieldOp w).toNat ∨ fieldZ w ≠ 0#6 ∨ (fieldOp w ≠ 0x4#4 ∧ fieldI w ≠ 0#6) ∨
      (fieldOp w ≠ 0x1#4 ∧ fieldOp w ≠ 0x3#4 ∧ fieldOp w ≠ 0x4#4 ∧ fieldJ w ≠ 0#16))) ∧
  ∀ (i : Instr) (s : State), ∃ t r data, exec i s = .next t ∧ t.rsp = s.rsp ++ r :: data ∧
    (respCode r = 0x04#8 ↔ ∃ op rest, i = .illegal op rest) ∧
    (respCode r = 0x03#8 ↔ s.state = .empty ∧
      (i = .draw ∨ (∃ j, i = .rdx j) ∨ (∃ j col, i = .rdv j col) ∨ i = .rdn)) ∧
    (respCode r = 0x02#8 ↔ i = .draw ∧
      (s.state = .exhausted ∨ (s.state = .ready ∧ s.n = 0xFFFFFFFF#32))) ∧
    (respCode r = 0x05#8 ↔ s.state ≠ .empty ∧ ((∃ j, i = .rdx j ∧ s.dim.toNat ≤ j.toNat) ∨
      ∃ j col, i = .rdv j col ∧ (s.dim.toNat ≤ j.toNat ∨ col.toNat < 1 ∨ 32 < col.toNat))) ∧
    (respCode r = 0x01#8 ↔ ∃ d, i = .cfg d ∧ (d = 0#16 ∨ s.cfg.maxDim < d.toNat)) ∧
    (respCode r).toNat ≤ 5

/-- 60_exceptions.md R147, R149: a failing command records its code in LAST_ERR and, with the opcode, in its
response word; on exhaustion it writes STATE; it emits no data word and leaves everything else as it was. -/
def Obligations.FailuresArePrecise : Prop :=
  ∀ (i : Instr) (s : State), ∃ t r data, exec i s = .next t ∧ t.rsp = s.rsp ++ r :: data ∧
    (respCode r ≠ 0x00#8 → data = [] ∧ respLen r = 0 ∧ respOp r = i.opcode ∧ t.lastErr = respCode r ∧
      SameOutside s t ∧ t.dim = s.dim ∧ t.n = s.n ∧ t.v = s.v ∧ t.x = s.x ∧ t.hist = s.hist ∧
      t.epoch = s.epoch ∧
      (t.state = s.state ∨
        (i = .draw ∧ s.state = .ready ∧ s.n = 0xFFFFFFFF#32 ∧ t.state = .exhausted)))

/-- 10_state.md R26: LAST_ERR holds the code of the most recent command that was not OK; OK leaves it, only
reset clears it, and STAT reads it without clearing it. -/
def Obligations.LastErrorIsSticky : Prop :=
  State.reset.lastErr = 0x00#8 ∧
  (∀ (i : Instr) (s : State), ∃ t r data, exec i s = .next t ∧ t.rsp = s.rsp ++ r :: data ∧
    t.lastErr = (if respCode r = 0x00#8 then s.lastErr else respCode r)) ∧
  (∀ s t : State, step s = .next t → t.lastErr = 0x00#8 → s.lastErr ≠ 0x00#8 →
    s.inputs.head? = some .reset ∨ s.inputs.head? = some .resetInFlight) ∧
  (∀ s : State, ∃ t status caps, exec .stat s = .next t ∧ t.rsp = s.rsp ++ [0x00026000#32, status, caps] ∧
    status.extractLsb' 8 8 = s.lastErr ∧ t.lastErr = s.lastErr)

/-- 60_exceptions.md R145, 30_encoding.md R64: a reserved opcode fails with ILLEGAL_COMMAND, whatever its other
bits, and has no other effect. -/
def Obligations.ReservedOpcodeIsIllegal : Prop :=
  ∀ w : Word, 8 ≤ (fieldOp w).toNat → RejectedAsIllegal w

/-- 30_encoding.md R65: an opcode 0x0 to 0x7 with a 1 outside its fields used fails with ILLEGAL_COMMAND and has
no other effect: Z always, I except in RDV, J except in CFG, RDX and RDV. -/
def Obligations.UnusedFieldsMustBeZero : Prop :=
  ∀ w : Word, (fieldOp w).toNat < 8 →
    (fieldZ w ≠ 0#6 ∨ (fieldOp w ≠ 0x4#4 ∧ fieldI w ≠ 0#6) ∨
      (fieldOp w ≠ 0x1#4 ∧ fieldOp w ≠ 0x3#4 ∧ fieldOp w ≠ 0x4#4 ∧ fieldJ w ≠ 0#16)) →
    RejectedAsIllegal w

/-- Every command completes, in every state (60_exceptions.md R140): `exec` answers a next state. -/
def Obligations.EveryCommandCompletes : Prop :=
  ∀ (i : Instr) (s : State), ∃ t, exec i s = .next t

/-! ## Steps, ports and reset -/

/-- A step runs the decoded command: with the host draining and offering, the word at position k is decoded
and executed on the state whose earlier response was taken whole and whose k moved on by one (00_scope.md
R11, 20_memory.md R53). The empty list of inputs is the host that drains (log entry 5). -/
def Obligations.StepRunsDecodedCommand : Prop :=
  (∀ (s : State) (w : Word), s.inputs = [] → s.program[s.k]? = some w →
    step s = exec (decode w) { s with k := s.k + 1, taken := s.taken ++ s.rsp, rsp := [] }) ∧
  (∀ (s : State) (w : Word) (later : List HostInput), s.inputs = .run :: later → s.program[s.k]? = some w →
    step s = exec (decode w)
      { s with inputs := later, k := s.k + 1, taken := s.taken ++ s.rsp, rsp := [] }) ∧
  (∀ (s : State) (nbits w : Nat), step (s.withFetchWord nbits w) = exec (decode (BitVec.ofNat 32 (w % 2 ^ nbits)))
    { s.withFetchWord nbits w with k := s.k + 1, taken := s.taken ++ s.rsp, rsp := [] })

/-- 10_state.md R22: where the host only drains and offers (no listed input, log entry 5), a step with a word at k
executes it and moves k by exactly 1, and past the end of the list a step changes nothing (log entry 6); under
every input a step leaves k or moves it by 1 inside the list, where a command abandoned by reset counts (log
entry 8). -/
def Obligations.CommandMovesIndexByOne : Prop :=
  (∀ (s : State) (w : Word), s.inputs = [] → s.program[s.k]? = some w →
    ∃ t, step s = .next t ∧ t.k = s.k + 1 ∧ t.program = s.program) ∧
  (∀ s : State, s.inputs = [] → s.program.length ≤ s.k → step s = .next s) ∧
  (∀ s t : State, step s = .next t → t.k = s.k ∨ (s.k < s.program.length ∧ t.k = s.k + 1))

/-- A step stops in one case only: a host that never takes the pending response (70_reset_and_hazards.md R164;
93 I12; log entry 7). -/
def Obligations.StepStopsOnlyAtStalledPort : Prop :=
  ∀ s : State, (s.Safe ↔ ¬(s.inputs.head? = some .neverDrain ∧ s.rsp ≠ [])) ∧
    (s.inputs.head? = some .neverDrain ∧ s.rsp ≠ [] → step s = .fault .portStalled) ∧
    ∀ r, step s ≠ .refused r

/-- 30_encoding.md R76: `cmd_ready` is 1 exactly when no word is pending, and a command offered while one is
pending is not accepted and nothing is lost. -/
def Obligations.CommandWaitsForDrainedResponse : Prop :=
  (∀ s : State, (portOutputs true s).cmdReady = true ↔ s.rsp = []) ∧
  (∀ (s : State) (later : List HostInput), s.inputs = .offer :: later → s.rsp ≠ [] →
    step s = .next { s with inputs := later }) ∧
  (∀ (s : State) (w : Word) (later : List HostInput), s.inputs = .offer :: later → s.rsp = [] →
    s.program[s.k]? = some w → step s = exec (decode w) { s with inputs := later, k := s.k + 1 })

/-- 30_encoding.md R76: no response word is dropped, duplicated or reordered: a step without reset only appends
to the words taken and pending, by nothing or by one command's whole response. -/
def Obligations.ResponseStreamOnlyGrows : Prop :=
  ∀ s t : State, step s = .next t →
    s.inputs.head? ≠ some .reset → s.inputs.head? ≠ some .resetInFlight →
    (t.k = s.k ∧ t.taken ++ t.rsp = s.taken ++ s.rsp) ∨
    ∃ w r data, s.program[s.k]? = some w ∧ t.k = s.k + 1 ∧ t.taken ++ t.rsp = s.taken ++ s.rsp ++ r :: data ∧
      respLen r = data.length ∧ respOp r = fieldOp w

/-- 30_encoding.md R75, R76: the host takes the oldest pending word, and `rsp_last` marks the last one. -/
def Obligations.HostTakesWordsInOrder : Prop :=
  ∀ (s : State) (w : Word) (rest : List Word) (later : List HostInput),
    s.rsp = w :: rest → s.inputs = .take :: later →
    (portOutputs true s).rspValid = true ∧ (portOutputs true s).rspData = some w ∧
    ((portOutputs true s).rspLast = true ↔ rest = []) ∧
    step s = .next { s with inputs := later, rsp := rest, taken := s.taken ++ [w] }

/-- 60_exceptions.md R158 and 70_reset_and_hazards.md R160: without a command and without reset, a step leaves
the engine and LAST_ERR as they were, and the words taken and pending are the same. -/
def Obligations.OnlyCommandsAndResetChangeState : Prop :=
  ∀ s t : State, s.inputs.head? ≠ some .reset → s.inputs.head? ≠ some .resetInFlight →
    step s = .next t → t.k = s.k →
    SameEngine s t ∧ t.lastErr = s.lastErr ∧ t.taken ++ t.rsp = s.taken ++ s.rsp

/-- 10_state.md R35: what reset leaves; V and X cannot be read. -/
def Obligations.ResetLeavesSpecifiedValues : Prop :=
  State.reset.state = .empty ∧ State.reset.dim = 0#16 ∧ State.reset.n = 0#32 ∧ State.reset.lastErr = 0x00#8 ∧
  State.reset.hist = [] ∧ State.reset.rsp = [] ∧ statusWord State.reset = 0x00000000#32 ∧
  (∃ caps, exec .stat State.reset = .next { State.reset with rsp := [0x00026000#32, 0x00000000#32, caps] } ∧
    caps = 0x01200000#32 ||| BitVec.ofNat 32 State.reset.cfg.maxDim) ∧
  (∀ j, exec (.rdx j) State.reset = .next { State.reset with lastErr := 0x03#8, rsp := [0x00003003#32] }) ∧
  (∀ j i, exec (.rdv j i) State.reset = .next { State.reset with lastErr := 0x03#8, rsp := [0x00004003#32] })

/-- 70_reset_and_hazards.md R160: reset loads the reset values, discards every word not taken, and abandons a
command that was accepted and not finished: it has no effect, and no response of it is left. That the
abandoned command still counts in the host's position is log entry 8. -/
def Obligations.HardwareResetAbandonsAndClears : Prop :=
  (∀ (s : State) (later : List HostInput), s.inputs = .reset :: later → ∃ t, step s = .next t ∧
    t.state = .empty ∧ t.dim = 0#16 ∧ t.n = 0#32 ∧ t.lastErr = 0x00#8 ∧ t.hist = [] ∧ t.rsp = [] ∧
    t.cfg = s.cfg ∧ t.program = s.program ∧ t.taken = s.taken ∧ t.k = s.k ∧ t.inputs = later) ∧
  (∀ (s : State) (later : List HostInput) (w : Word), s.inputs = .resetInFlight :: later →
    s.program[s.k]? = some w → ∃ t, step s = .next t ∧
    t.state = .empty ∧ t.dim = 0#16 ∧ t.n = 0#32 ∧ t.lastErr = 0x00#8 ∧ t.hist = [] ∧ t.rsp = [] ∧
    t.cfg = s.cfg ∧ t.program = s.program ∧ t.taken = s.taken ++ s.rsp ∧ t.k = s.k + 1 ∧ t.inputs = later) ∧
  (∀ s : State, (portOutputs false s).cmdReady = false ∧ (portOutputs false s).rspValid = false)

/-! ## The builder -/

/-- 40_construct.md R81: row 0. -/
def Obligations.BuilderRowZero : Prop :=
  ∀ c : Config, (buildRow c 0).length = 32 ∧
    (∀ m, 1 ≤ m → m ≤ 31 → ∃ b, (buildRow c 0)[m - 1]? = some b ∧ b.toNat = 2 ^ (32 - m)) ∧
    (buildRow c 0)[31]? = some c.row0Col32

/-- 40_construct.md R82 with 20_memory.md R42: columns 1 to S of row j are the seeds shifted, and the shift
loses no bits. -/
def Obligations.BuilderSeedsLoseNoBits : Prop :=
  ∀ (c : Config) (j : Nat), 1 ≤ j → j < c.maxDim → ∃ e, romEntry c j = some e ∧
    ∀ i, 1 ≤ i → i ≤ e.s → ∃ b m, (buildRow c j)[i - 1]? = some b ∧ e.m[i - 1]? = some m ∧
      b = BitVec.ofNat 32 m <<< (32 - i) ∧ b.toNat = m * 2 ^ (32 - i)

/-- 40_construct.md R83 and R84: columns S+1 to 32 of row j follow the recurrence over the row's own earlier
columns. -/
def Obligations.BuilderRecurrence : Prop :=
  ∀ (c : Config) (j : Nat), 1 ≤ j → j < c.maxDim → ∃ e, romEntry c j = some e ∧
    (buildRow c j).length = 32 ∧
    ∀ i, e.s < i → i ≤ 32 →
      (buildRow c j)[i - 1]? = some
        ((List.range' 1 (e.s - 1)).foldl
          (fun t k => if (e.a >>> (e.s - 1 - k)) % 2 = 1 then t ^^^ (buildRow c j).getD (i - k - 1) 0#32 else t)
          ((buildRow c j).getD (i - e.s - 1) 0#32 ^^^ ((buildRow c j).getD (i - e.s - 1) 0#32 >>> e.s)))

/-- 40_construct.md R86, which the spec derives from R80: BUILD(d) is the first d rows of BUILD(d'), and row j depends on its own table entry
(and ROW0_COL32 for j = 0) alone. -/
def Obligations.BuilderRowsIndependentOfDimension : Prop :=
  (∀ (c : Config) (d d' : Nat), d ≤ d' → build c d = (build c d').take d) ∧
  (∀ (c c' : Config) (j : Nat), romEntry c j = romEntry c' j → (j = 0 → c.row0Col32 = c'.row0Col32) →
    buildRow c j = buildRow c' j)

/-! ## CFG and REL -/

/-- 40_construct.md R87: a CFG whose operand is in range completes in every STATE: READY, DIM = d, N = 0, X = 0,
V = BUILD(d), HIST = [0], response OK with LEN 0; LAST_ERR and the outside are unchanged; bits 27:16 must be
zero. -/
def Obligations.CfgConstructsEngine : Prop :=
  (∀ (d : BitVec 16) (s : State), d ≠ 0#16 → d.toNat ≤ s.cfg.maxDim → ∃ t, exec (.cfg d) s = .next t ∧
    Reply s t [0x00001000#32] s.lastErr ∧ t.state = .ready ∧ t.dim = d ∧ t.n = 0#32 ∧
    (∀ j, j < d.toNat → t.readX j = 0#32 ∧ t.hist[j]? = some [0#32] ∧
      ∀ i, 1 ≤ i → i ≤ 32 → (buildRow s.cfg j)[i - 1]? = some (t.readV j i)) ∧
    t.v.length = d.toNat ∧ t.x.length = d.toNat ∧ t.hist.length = d.toNat) ∧
  (∀ d : BitVec 16, decode (0x10000000#32 ||| d.setWidth 32) = .cfg d) ∧
  (∀ w : Word, fieldOp w = 0x1#4 → fieldI w ≠ 0#6 ∨ fieldZ w ≠ 0#6 → RejectedAsIllegal w)

/-- 40_construct.md R88: a CFG whose operand is out of range fails with CONFIG_ERROR and changes LAST_ERR alone. -/
def Obligations.CfgRejectsOutOfRange : Prop :=
  ∀ (d : BitVec 16) (s : State), d = 0#16 ∨ s.cfg.maxDim < d.toNat → ∃ t, exec (.cfg d) s = .next t ∧
    Reply s t [0x00001001#32] 0x01#8 ∧ SameEngine s t

/-- 40_construct.md R89: REL completes in every STATE: EMPTY, DIM 0, N 0, response OK with LEN 0, LAST_ERR
unchanged; V and X are unreadable afterwards; in EMPTY the registers are as they were. -/
def Obligations.RelReleasesEngine : Prop :=
  (∀ s : State, ∃ t, exec .rel s = .next t ∧ Reply s t [0x00007000#32] s.lastErr ∧
    t.state = .empty ∧ t.dim = 0#16 ∧ t.n = 0#32 ∧ t.hist = [] ∧
    (Lifecycle s → s.state = .empty → t.state = s.state ∧ t.dim = s.dim ∧ t.n = s.n) ∧
    (∀ j, ∃ u, exec (.rdx j) t = .next u ∧ u.rsp = t.rsp ++ [0x00003003#32]) ∧
    (∀ j i, ∃ u, exec (.rdv j i) t = .next u ∧ u.rsp = t.rsp ++ [0x00004003#32])) ∧
  encode .rel = 0x70000000#32 ∧ ∀ w : Word, fieldOp w = 0x7#4 → fieldRest w ≠ 0#28 → RejectedAsIllegal w

/-! ## DRAW -/

/-- 00_scope.md R9: `rzb` is the position, from 1, of the lowest zero bit; it is in [1, 32] but for 0xFFFFFFFF,
where it is 33. -/
def Obligations.RzbIsLowestZeroBit : Prop :=
  (∀ w : Word, w ≠ 0xFFFFFFFF#32 → 1 ≤ rzb w ∧ rzb w ≤ 32 ∧ w.getLsbD (rzb w - 1) = false ∧
    ∀ b, b < rzb w - 1 → w.getLsbD b = true) ∧
  rzb 0xFFFFFFFF#32 = 33

/-- 41_draw.md R101 to R103: in READY with N below its limit a DRAW completes: N + 1 without wrapping, every X[j]
XORed with V[j][c] for c = rzb(N), HIST[j] extended, and the DIM new words returned in order; STATE, DIM, V,
LAST_ERR and the outside are unchanged; any non-zero bit of 27:0 makes it illegal. -/
def Obligations.DrawAdvancesPoint : Prop :=
  (∀ s : State, s.state = .ready → s.n ≠ 0xFFFFFFFF#32 → ∃ t, exec .draw s = .next t ∧
    Reply s t (((s.dim.setWidth 32 <<< 16) ||| 0x00002000#32) :: (List.range s.dim.toNat).map t.readX) s.lastErr ∧
    t.n.toNat = s.n.toNat + 1 ∧ t.state = .ready ∧ t.dim = s.dim ∧ t.v = s.v ∧ t.epoch = s.epoch ∧
    t.x.length = s.dim.toNat ∧ t.hist.length = s.dim.toNat ∧
    ∀ j, j < s.dim.toNat → t.readX j = s.readX j ^^^ s.readV j (rzb s.n) ∧
      ∀ h, s.hist[j]? = some h → t.hist[j]? = some (h ++ [t.readX j])) ∧
  decode 0x20000000#32 = .draw ∧ ∀ w : Word, fieldOp w = 0x2#4 → fieldRest w ≠ 0#28 → RejectedAsIllegal w

/-- 41_draw.md R107: in READY with N = 0xFFFFFFFF a DRAW does not increment: EXHAUSTED, LAST_ERR 0x02, response
0x00002002, N, X and V unchanged; and the draws 1 to 2^32-1 of an engine all succeed. -/
def Obligations.DrawExhaustsExactlyAtLimit : Prop :=
  (∀ s : State, s.state = .ready → s.n = 0xFFFFFFFF#32 → ∃ t, exec .draw s = .next t ∧
    Reply s t [0x00002002#32] 0x02#8 ∧ t.state = .exhausted ∧ t.dim = s.dim ∧ t.n = s.n ∧ t.v = s.v ∧
    t.x = s.x ∧ t.hist = s.hist ∧ t.epoch = s.epoch) ∧
  (∀ (c : Config) (d : BitVec 16) (s : State), JustConstructed c d s →
    (∀ m, m ≤ 2 ^ 32 - 1 → ∃ t, Draws s m t ∧ t.n.toNat = m ∧ t.state = .ready) ∧
    ∀ m t, Draws s m t → m ≤ 2 ^ 32 - 1)

/-- 41_draw.md R108: a DRAW in EMPTY or EXHAUSTED fails and changes LAST_ERR alone; an exhausted engine stays
exhausted until a successful CFG, a REL or a reset. -/
def Obligations.DrawFailsWithoutUsableEngine : Prop :=
  (∀ s : State, s.state = .empty → ∃ t, exec .draw s = .next t ∧ Reply s t [0x00002003#32] 0x03#8 ∧
    SameEngine s t) ∧
  (∀ s : State, s.state = .exhausted → ∃ t, exec .draw s = .next t ∧ Reply s t [0x00002002#32] 0x02#8 ∧
    SameEngine s t) ∧
  (∀ s t : State, s.state = .exhausted → step s = .next t → t.state ≠ .exhausted →
    s.inputs.head? = some .reset ∨ s.inputs.head? = some .resetInFlight ∨
    ∃ w, s.program[s.k]? = some w ∧ (decode w = .rel ∨
      ∃ d, decode w = .cfg d ∧ d ≠ 0#16 ∧ d.toNat ≤ s.cfg.maxDim))

/-- The identity from which the spec derives 41_draw.md R106, over the formula of 00_scope.md R10 (general knowledge
by the spec's own mark; log entry 19): consecutive Gray codes differ in the bit that the column selector names. -/
def Obligations.GrayStepFlipsSelectedBit : Prop :=
  ∀ n : Word, n ≠ 0xFFFFFFFF#32 → gray (n + 1#32) ^^^ gray n = 1#32 <<< (rzb n - 1)

/-- 41_draw.md R106, which the spec derives (`gray` is general knowledge by its own mark: log entry 19): after m
successful draws since the CFG, every X[j] is the XOR of the columns of BUILD(d)
that gray(m) selects. -/
def Obligations.PointHasClosedForm : Prop :=
  ∀ (c : Config) (d : BitVec 16) (s t : State) (m : Nat), JustConstructed c d s → Draws s m t →
    t.n.toNat = m ∧ ∀ j, j < d.toNat →
      t.readX j = closedPoint (fun i => (buildRow c j).getD (i - 1) 0#32) (BitVec.ofNat 32 m)

/-- 41_draw.md R109, which the spec derives: column 32 is selected by the draw with N = 0x7FFFFFFF alone, and before it no point depends
on ROW0_COL32. -/
def Obligations.PointsIndependentOfRow0Col32 : Prop :=
  (∀ n : Word, n ≠ 0xFFFFFFFF#32 → (rzb n = 32 ↔ n = 0x7FFFFFFF#32)) ∧
  ∀ (c c' : Config) (d : BitVec 16) (s s' t t' : State) (m : Nat),
    c'.maxDim = c.maxDim → c'.dnt = c.dnt → JustConstructed c d s → JustConstructed c' d s' →
    Draws s m t → Draws s' m t' → ∀ j, j < d.toNat → (m ≤ 0x7FFFFFFF ∨ 1 ≤ j) → t'.readX j = t.readX j

/-- 41_draw.md R110 (1) and (2), which the spec derives: after the same number of draws, engines of dimensions d <= d' on the same
configuration hold the same first d words (for d = d' this is determinism). -/
def Obligations.PointsArePrefixConsistent : Prop :=
  ∀ (c : Config) (d d' : BitVec 16) (s s' t t' : State) (m : Nat), d.toNat ≤ d'.toNat →
    JustConstructed c d s → JustConstructed c d' s' → Draws s m t → Draws s' m t' →
    ∀ j, j < d.toNat → t'.readX j = t.readX j

/-- 41_draw.md R110 (3), which the spec derives: for m < 2^31, dimension 0 after draw m is the bit-reversed Gray code: bit 31-b is bit b
of gray(m) for b in [0, 30], and bit 0 is 0. -/
def Obligations.DimensionZeroIsBitReversedGray : Prop :=
  ∀ (c : Config) (d : BitVec 16) (s t : State) (m : Nat), JustConstructed c d s → Draws s m t → m < 2 ^ 31 →
    (∀ b, b ≤ 30 → (t.readX 0).getLsbD (31 - b) = (gray (BitVec.ofNat 32 m)).getLsbD b) ∧
    (t.readX 0).getLsbD 0 = false

/-- 41_draw.md R104: every word X stands for the coordinate X / 2^32, in [0, 1 - 2^-32]. -/
def Obligations.CoordinateInUnitInterval : Prop :=
  ∀ w : Word, coordinate w * 2 ^ 32 = (w.toNat : ℚ) ∧ 0 ≤ coordinate w ∧ coordinate w ≤ 1 - 1 / 2 ^ 32 ∧ coordinate w < 1

/-- 41_draw.md R105, general knowledge by the spec's own mark (log entry 19): the pattern is the one given, with `p = floor(log2 X)`, and it stands for the coordinate
exactly. -/
def Obligations.Binary64ConversionIsExact : Prop :=
  ∀ w : Word, binary64Value (toBinary64 w) = some (coordinate w) ∧
    (w = 0#32 → toBinary64 w = 0#64) ∧
    (∀ p, 2 ^ p ≤ w.toNat → w.toNat < 2 ^ (p + 1) →
      (toBinary64 w).toNat = (991 + p) * 2 ^ 52 + w.toNat * 2 ^ (52 - p) % 2 ^ 52)

/-! ## Observation -/

/-- 42_observe.md R120: NOP completes in every STATE, responds OK and changes nothing; any non-zero bit of 27:0
makes it illegal. -/
def Obligations.NopRespondsAndChangesNothing : Prop :=
  (∀ s : State, ∃ t, exec .nop s = .next t ∧ Reply s t [0x00000000#32] s.lastErr ∧ SameEngine s t) ∧
  decode 0x00000000#32 = .nop ∧ ∀ w : Word, fieldOp w = 0x0#4 → fieldRest w ≠ 0#28 → RejectedAsIllegal w

/-- 42_observe.md R121: RDX returns X[j] in READY and EXHAUSTED for j < DIM and changes nothing; it fails with
NO_ENGINE, then INDEX_RANGE, changing LAST_ERR alone; bits 27:16 must be zero; right after CFG it returns 0,
and after a DRAW the word that DRAW emitted. -/
def Obligations.RdxReadsPoint : Prop :=
  (∀ (j : BitVec 16) (s : State),
    (s.state ≠ .empty → j.toNat < s.dim.toNat → ∃ t, exec (.rdx j) s = .next t ∧
      Reply s t [0x00013000#32, s.readX j.toNat] s.lastErr ∧ SameEngine s t) ∧
    (s.state = .empty → ∃ t, exec (.rdx j) s = .next t ∧ Reply s t [0x00003003#32] 0x03#8 ∧ SameEngine s t) ∧
    (s.state ≠ .empty → s.dim.toNat ≤ j.toNat → ∃ t, exec (.rdx j) s = .next t ∧
      Reply s t [0x00003005#32] 0x05#8 ∧ SameEngine s t) ∧
    decode (0x30000000#32 ||| j.setWidth 32) = .rdx j) ∧
  (∀ w : Word, fieldOp w = 0x3#4 → fieldI w ≠ 0#6 ∨ fieldZ w ≠ 0#6 → RejectedAsIllegal w) ∧
  (∀ (c : Config) (d : BitVec 16) (s : State), JustConstructed c d s → ∀ j, j < d.toNat → s.readX j = 0#32) ∧
  (∀ s t : State, s.state = .ready → s.n ≠ 0xFFFFFFFF#32 → exec .draw s = .next t →
    ∃ r data, t.rsp = s.rsp ++ r :: data ∧ ∀ j, j < t.dim.toNat → data[j]? = some (t.readX j))

/-- 42_observe.md R122: RDV returns V[j][i] in READY and EXHAUSTED for j < DIM and i in [1, 32] and changes nothing;
it fails with NO_ENGINE, then INDEX_RANGE (column 0 and columns above 32 too), changing LAST_ERR alone; bits
21:16 must be zero; V[0][32] is ROW0_COL32. -/
def Obligations.RdvReadsMatrix : Prop :=
  (∀ (j : BitVec 16) (i : BitVec 6) (s : State),
    (s.state ≠ .empty → j.toNat < s.dim.toNat → 1 ≤ i.toNat → i.toNat ≤ 32 → ∃ t, exec (.rdv j i) s = .next t ∧
      Reply s t [0x00014000#32, s.readV j.toNat i.toNat] s.lastErr ∧ SameEngine s t) ∧
    (s.state = .empty → ∃ t, exec (.rdv j i) s = .next t ∧ Reply s t [0x00004003#32] 0x03#8 ∧ SameEngine s t) ∧
    (s.state ≠ .empty → (s.dim.toNat ≤ j.toNat ∨ i.toNat = 0 ∨ 32 < i.toNat) → ∃ t, exec (.rdv j i) s = .next t ∧
      Reply s t [0x00004005#32] 0x05#8 ∧ SameEngine s t) ∧
    decode (0x40000000#32 ||| (i.setWidth 32 <<< 22) ||| j.setWidth 32) = .rdv j i) ∧
  (∀ w : Word, fieldOp w = 0x4#4 → fieldZ w ≠ 0#6 → RejectedAsIllegal w) ∧
  (∀ s : State, Storage s → 0 < s.dim.toNat → s.readV 0 32 = s.cfg.row0Col32)

/-- 42_observe.md R122, 40_construct.md R80: on every state that meets the lifecycle and storage invariants, RDV of
a cell in range returns BUILD's word. -/
def Obligations.RdvReturnsBuilderWord : Prop :=
  ∀ (j : BitVec 16) (i : BitVec 6) (s : State), Lifecycle s → Storage s → s.state ≠ .empty →
    j.toNat < s.dim.toNat → 1 ≤ i.toNat → i.toNat ≤ 32 → ∃ t b, exec (.rdv j i) s = .next t ∧
      t.rsp = s.rsp ++ [0x00014000#32, b] ∧ (buildRow s.cfg j.toNat)[i.toNat - 1]? = some b

/-- 42_observe.md R123: RDN returns N in READY and EXHAUSTED and changes nothing; in EMPTY it fails with NO_ENGINE; any
non-zero bit of 27:0 makes it illegal; after m successful draws since the CFG it returns m, and in EXHAUSTED
0xFFFFFFFF. -/
def Obligations.RdnReadsCounter : Prop :=
  (∀ s : State, s.state ≠ .empty → ∃ t, exec .rdn s = .next t ∧
    Reply s t [0x00015000#32, s.n] s.lastErr ∧ SameEngine s t) ∧
  (∀ s : State, s.state = .empty → ∃ t, exec .rdn s = .next t ∧ Reply s t [0x00005003#32] 0x03#8 ∧ SameEngine s t) ∧
  decode 0x50000000#32 = .rdn ∧
  (∀ w : Word, fieldOp w = 0x5#4 → fieldRest w ≠ 0#28 → RejectedAsIllegal w) ∧
  (∀ (c : Config) (d : BitVec 16) (s t : State) (m : Nat), JustConstructed c d s → Draws s m t →
    ∃ u, exec .rdn t = .next u ∧ u.rsp = t.rsp ++ [0x00015000#32, BitVec.ofNat 32 m]) ∧
  (∀ s : State, Lifecycle s → s.state = .exhausted →
    ∃ t, exec .rdn s = .next t ∧ t.rsp = s.rsp ++ [0x00015000#32, 0xFFFFFFFF#32])

/-- 42_observe.md R124 with 10_state.md R30 and R31: STAT completes in every STATE and returns STATUS and CAPS, field
by field, and changes nothing; any non-zero bit of 27:0 makes it illegal. -/
def Obligations.StatReportsStatusAndCaps : Prop :=
  (∀ s : State, ∃ t status caps, exec .stat s = .next t ∧
    Reply s t [0x00026000#32, status, caps] s.lastErr ∧ SameEngine s t ∧
    status.extractLsb' 16 16 = s.dim ∧ status.extractLsb' 8 8 = s.lastErr ∧ status.extractLsb' 2 6 = 0#6 ∧
    status.extractLsb' 0 2 = (match s.state with
      | .empty => 0#2
      | .ready => 1#2
      | .exhausted => 2#2) ∧
    caps.extractLsb' 24 8 = 0x01#8 ∧ caps.extractLsb' 16 8 = 32#8 ∧ (caps.extractLsb' 0 16).toNat = s.cfg.maxDim) ∧
  decode 0x60000000#32 = .stat ∧ ∀ w : Word, fieldOp w = 0x6#4 → fieldRest w ≠ 0#28 → RejectedAsIllegal w

/-- 20_memory.md R50: NOP, RDX, RDV, RDN and STAT change no state but LAST_ERR on a failure, and repeated they
answer the same words. -/
def Obligations.ObserversAreRepeatable : Prop :=
  ∀ (i : Instr) (s : State),
    (i = .nop ∨ (∃ j, i = .rdx j) ∨ (∃ j col, i = .rdv j col) ∨ i = .rdn ∨ i = .stat) →
    ∃ t u words, exec i s = .next t ∧ Reply s t words t.lastErr ∧ SameEngine s t ∧
      exec i t = .next u ∧ Reply t u words t.lastErr ∧ SameEngine t u

/-- 10_state.md R23, R24, R25, R27, R28: who writes the engine's registers and stores. REL makes V and X
unreadable. -/
def Obligations.EngineWrittenOnlyByItsCommands : Prop :=
  ∀ (i : Instr) (s t : State), exec i s = .next t →
    (t.state ≠ s.state → (∃ d, i = .cfg d) ∨ i = .draw ∨ i = .rel) ∧
    (t.dim ≠ s.dim → (∃ d, i = .cfg d) ∨ i = .rel) ∧
    (t.n ≠ s.n → (∃ d, i = .cfg d) ∨ i = .draw ∨ i = .rel) ∧
    ((∃ j col, t.readV j col ≠ s.readV j col) → (∃ d, i = .cfg d) ∨ i = .rel) ∧
    ((∃ j, t.readX j ≠ s.readX j) → (∃ d, i = .cfg d) ∨ i = .draw ∨ i = .rel)

/-- 10_state.md R27, R28 and 93 I6: no command shows an unspecified cell: states that agree on what is readable
answer alike and stay so. -/
def Obligations.UnspecifiedCellsAreNeverShown : Prop :=
  ∀ (i : Instr) (s s' t t' : State), SameReadable s s' → exec i s = .next t → exec i s' = .next t' →
    SameReadable t t'

/-! ## Invariants (10_state.md R34) -/

/-- The reset state meets the invariant of 10_state.md R34, which the spec derives. -/
def Obligations.ResetMeetsInvariant : Prop := State.reset.Inv

/-- 10_state.md R34 (a) to (c), which the spec derives: every step keeps the lifecycle invariant. -/
def Obligations.StepKeepsLifecycle : Prop :=
  ∀ s t : State, Lifecycle s → step s = .next t → Lifecycle t

/-- 10_state.md R27, R28: every step keeps the stores in canonical form (which cells are listed is log entry
3), and V equal to BUILD(DIM). -/
def Obligations.StepKeepsStorage : Prop :=
  ∀ s t : State, Storage s → step s = .next t → Storage t

/-- 10_state.md R29: every step keeps the history invariants. -/
def Obligations.StepKeepsHistory : Prop :=
  ∀ s t : State, History s → step s = .next t → History t

/-- 10_state.md R34 (e) and 41_draw.md R106, which the spec derives: every step keeps the closed form of X. -/
def Obligations.StepKeepsClosedForm : Prop :=
  ∀ s t : State, ClosedForm s → step s = .next t → ClosedForm t
end

