-- ==== Sys2Proof/Laws/State.lean ====
section
/-! SUPPORT. One lemma per field per update of the state, each true by definition, and what the two reads
see after an update. -/

namespace Sys2Proof.Machine.State

/-! ## respond -/

section
variable (s : State) (op : BitVec 4) (data : List Word)

@[simp] theorem respond_cfg : (s.respond op data).cfg = s.cfg := rfl
@[simp] theorem respond_state : (s.respond op data).state = s.state := rfl
@[simp] theorem respond_dim : (s.respond op data).dim = s.dim := rfl
@[simp] theorem respond_n : (s.respond op data).n = s.n := rfl
@[simp] theorem respond_lastErr : (s.respond op data).lastErr = s.lastErr := rfl
@[simp] theorem respond_v : (s.respond op data).v = s.v := rfl
@[simp] theorem respond_x : (s.respond op data).x = s.x := rfl
@[simp] theorem respond_hist : (s.respond op data).hist = s.hist := rfl
@[simp] theorem respond_rsp : (s.respond op data).rsp = s.rsp ++ respWord data.length op .ok :: data := rfl
@[simp] theorem respond_epoch : (s.respond op data).epoch = s.epoch := rfl
@[simp] theorem respond_program : (s.respond op data).program = s.program := rfl
@[simp] theorem respond_k : (s.respond op data).k = s.k := rfl
@[simp] theorem respond_inputs : (s.respond op data).inputs = s.inputs := rfl
@[simp] theorem respond_taken : (s.respond op data).taken = s.taken := rfl
@[simp] theorem respond_readX (j : Nat) : (s.respond op data).readX j = s.readX j := rfl
@[simp] theorem respond_readV (j i : Nat) : (s.respond op data).readV j i = s.readV j i := rfl

end

/-! ## raise -/

section
variable (s : State) (op : BitVec 4) (code : StatusCode)

@[simp] theorem raise_cfg : (s.raise op code).cfg = s.cfg := rfl
@[simp] theorem raise_state : (s.raise op code).state = s.state := rfl
@[simp] theorem raise_dim : (s.raise op code).dim = s.dim := rfl
@[simp] theorem raise_n : (s.raise op code).n = s.n := rfl
@[simp] theorem raise_lastErr : (s.raise op code).lastErr = code.toByte := rfl
@[simp] theorem raise_v : (s.raise op code).v = s.v := rfl
@[simp] theorem raise_x : (s.raise op code).x = s.x := rfl
@[simp] theorem raise_hist : (s.raise op code).hist = s.hist := rfl
@[simp] theorem raise_rsp : (s.raise op code).rsp = s.rsp ++ [respWord 0 op code] := rfl
@[simp] theorem raise_epoch : (s.raise op code).epoch = s.epoch := rfl
@[simp] theorem raise_program : (s.raise op code).program = s.program := rfl
@[simp] theorem raise_k : (s.raise op code).k = s.k := rfl
@[simp] theorem raise_inputs : (s.raise op code).inputs = s.inputs := rfl
@[simp] theorem raise_taken : (s.raise op code).taken = s.taken := rfl
@[simp] theorem raise_readX (j : Nat) : (s.raise op code).readX j = s.readX j := rfl
@[simp] theorem raise_readV (j i : Nat) : (s.raise op code).readV j i = s.readV j i := rfl

end

/-! ## construct -/

section
variable (s : State) (d : BitVec 16)

@[simp] theorem construct_cfg : (s.construct d).cfg = s.cfg := rfl
@[simp] theorem construct_state : (s.construct d).state = .ready := rfl
@[simp] theorem construct_dim : (s.construct d).dim = d := rfl
@[simp] theorem construct_n : (s.construct d).n = 0#32 := rfl
@[simp] theorem construct_lastErr : (s.construct d).lastErr = s.lastErr := rfl
@[simp] theorem construct_v : (s.construct d).v = build s.cfg d.toNat := rfl
@[simp] theorem construct_x : (s.construct d).x = List.replicate d.toNat 0#32 := rfl
@[simp] theorem construct_hist : (s.construct d).hist = List.replicate d.toNat [0#32] := rfl
@[simp] theorem construct_rsp : (s.construct d).rsp = s.rsp := rfl
@[simp] theorem construct_epoch : (s.construct d).epoch = s.epoch + 1 := rfl
@[simp] theorem construct_program : (s.construct d).program = s.program := rfl
@[simp] theorem construct_k : (s.construct d).k = s.k := rfl
@[simp] theorem construct_inputs : (s.construct d).inputs = s.inputs := rfl
@[simp] theorem construct_taken : (s.construct d).taken = s.taken := rfl

end

/-! ## advance -/

section
variable (s : State)

@[simp] theorem advance_cfg : (s.advance).cfg = s.cfg := rfl
@[simp] theorem advance_state : (s.advance).state = s.state := rfl
@[simp] theorem advance_dim : (s.advance).dim = s.dim := rfl
@[simp] theorem advance_n : (s.advance).n = s.n + 1#32 := rfl
@[simp] theorem advance_lastErr : (s.advance).lastErr = s.lastErr := rfl
@[simp] theorem advance_v : (s.advance).v = s.v := rfl
@[simp] theorem advance_x : (s.advance).x = s.newPoint := rfl
@[simp] theorem advance_hist : (s.advance).hist = (List.range s.dim.toNat).map (fun j => s.hist.getD j [] ++ [s.newWord j]) := rfl
@[simp] theorem advance_rsp : (s.advance).rsp = s.rsp := rfl
@[simp] theorem advance_epoch : (s.advance).epoch = s.epoch := rfl
@[simp] theorem advance_program : (s.advance).program = s.program := rfl
@[simp] theorem advance_k : (s.advance).k = s.k := rfl
@[simp] theorem advance_inputs : (s.advance).inputs = s.inputs := rfl
@[simp] theorem advance_taken : (s.advance).taken = s.taken := rfl
@[simp] theorem advance_readV (j i : Nat) : (s.advance).readV j i = s.readV j i := rfl

end

/-! ## exhaust -/

section
variable (s : State)

@[simp] theorem exhaust_cfg : (s.exhaust).cfg = s.cfg := rfl
@[simp] theorem exhaust_state : (s.exhaust).state = .exhausted := rfl
@[simp] theorem exhaust_dim : (s.exhaust).dim = s.dim := rfl
@[simp] theorem exhaust_n : (s.exhaust).n = s.n := rfl
@[simp] theorem exhaust_lastErr : (s.exhaust).lastErr = s.lastErr := rfl
@[simp] theorem exhaust_v : (s.exhaust).v = s.v := rfl
@[simp] theorem exhaust_x : (s.exhaust).x = s.x := rfl
@[simp] theorem exhaust_hist : (s.exhaust).hist = s.hist := rfl
@[simp] theorem exhaust_rsp : (s.exhaust).rsp = s.rsp := rfl
@[simp] theorem exhaust_epoch : (s.exhaust).epoch = s.epoch := rfl
@[simp] theorem exhaust_program : (s.exhaust).program = s.program := rfl
@[simp] theorem exhaust_k : (s.exhaust).k = s.k := rfl
@[simp] theorem exhaust_inputs : (s.exhaust).inputs = s.inputs := rfl
@[simp] theorem exhaust_taken : (s.exhaust).taken = s.taken := rfl
@[simp] theorem exhaust_readX (j : Nat) : (s.exhaust).readX j = s.readX j := rfl
@[simp] theorem exhaust_readV (j i : Nat) : (s.exhaust).readV j i = s.readV j i := rfl

end

/-! ## release -/

section
variable (s : State)

@[simp] theorem release_cfg : (s.release).cfg = s.cfg := rfl
@[simp] theorem release_state : (s.release).state = .empty := rfl
@[simp] theorem release_dim : (s.release).dim = 0#16 := rfl
@[simp] theorem release_n : (s.release).n = 0#32 := rfl
@[simp] theorem release_lastErr : (s.release).lastErr = s.lastErr := rfl
@[simp] theorem release_v : (s.release).v = [] := rfl
@[simp] theorem release_x : (s.release).x = [] := rfl
@[simp] theorem release_hist : (s.release).hist = [] := rfl
@[simp] theorem release_rsp : (s.release).rsp = s.rsp := rfl
@[simp] theorem release_epoch : (s.release).epoch = s.epoch + 1 := rfl
@[simp] theorem release_program : (s.release).program = s.program := rfl
@[simp] theorem release_k : (s.release).k = s.k := rfl
@[simp] theorem release_inputs : (s.release).inputs = s.inputs := rfl
@[simp] theorem release_taken : (s.release).taken = s.taken := rfl

end

/-! ## hardwareReset -/

section
variable (s : State)

@[simp] theorem hardwareReset_cfg : (s.hardwareReset).cfg = s.cfg := rfl
@[simp] theorem hardwareReset_state : (s.hardwareReset).state = .empty := rfl
@[simp] theorem hardwareReset_dim : (s.hardwareReset).dim = 0#16 := rfl
@[simp] theorem hardwareReset_n : (s.hardwareReset).n = 0#32 := rfl
@[simp] theorem hardwareReset_lastErr : (s.hardwareReset).lastErr = 0x00#8 := rfl
@[simp] theorem hardwareReset_v : (s.hardwareReset).v = [] := rfl
@[simp] theorem hardwareReset_x : (s.hardwareReset).x = [] := rfl
@[simp] theorem hardwareReset_hist : (s.hardwareReset).hist = [] := rfl
@[simp] theorem hardwareReset_rsp : (s.hardwareReset).rsp = [] := rfl
@[simp] theorem hardwareReset_epoch : (s.hardwareReset).epoch = s.epoch + 1 := rfl
@[simp] theorem hardwareReset_program : (s.hardwareReset).program = s.program := rfl
@[simp] theorem hardwareReset_k : (s.hardwareReset).k = s.k := rfl
@[simp] theorem hardwareReset_inputs : (s.hardwareReset).inputs = s.inputs := rfl
@[simp] theorem hardwareReset_taken : (s.hardwareReset).taken = s.taken := rfl

end

/-! ## drain -/

section
variable (s : State)

@[simp] theorem drain_cfg : (s.drain).cfg = s.cfg := rfl
@[simp] theorem drain_state : (s.drain).state = s.state := rfl
@[simp] theorem drain_dim : (s.drain).dim = s.dim := rfl
@[simp] theorem drain_n : (s.drain).n = s.n := rfl
@[simp] theorem drain_lastErr : (s.drain).lastErr = s.lastErr := rfl
@[simp] theorem drain_v : (s.drain).v = s.v := rfl
@[simp] theorem drain_x : (s.drain).x = s.x := rfl
@[simp] theorem drain_hist : (s.drain).hist = s.hist := rfl
@[simp] theorem drain_rsp : (s.drain).rsp = [] := rfl
@[simp] theorem drain_epoch : (s.drain).epoch = s.epoch := rfl
@[simp] theorem drain_program : (s.drain).program = s.program := rfl
@[simp] theorem drain_k : (s.drain).k = s.k := rfl
@[simp] theorem drain_inputs : (s.drain).inputs = s.inputs := rfl
@[simp] theorem drain_taken : (s.drain).taken = s.taken ++ s.rsp := rfl
@[simp] theorem drain_readX (j : Nat) : (s.drain).readX j = s.readX j := rfl
@[simp] theorem drain_readV (j i : Nat) : (s.drain).readV j i = s.readV j i := rfl

end

/-! ## accept -/

section
variable (s : State)

@[simp] theorem accept_cfg : (s.accept).cfg = s.cfg := rfl
@[simp] theorem accept_state : (s.accept).state = s.state := rfl
@[simp] theorem accept_dim : (s.accept).dim = s.dim := rfl
@[simp] theorem accept_n : (s.accept).n = s.n := rfl
@[simp] theorem accept_lastErr : (s.accept).lastErr = s.lastErr := rfl
@[simp] theorem accept_v : (s.accept).v = s.v := rfl
@[simp] theorem accept_x : (s.accept).x = s.x := rfl
@[simp] theorem accept_hist : (s.accept).hist = s.hist := rfl
@[simp] theorem accept_rsp : (s.accept).rsp = s.rsp := rfl
@[simp] theorem accept_epoch : (s.accept).epoch = s.epoch := rfl
@[simp] theorem accept_program : (s.accept).program = s.program := rfl
@[simp] theorem accept_k : (s.accept).k = s.k + 1 := rfl
@[simp] theorem accept_inputs : (s.accept).inputs = s.inputs := rfl
@[simp] theorem accept_taken : (s.accept).taken = s.taken := rfl
@[simp] theorem accept_readX (j : Nat) : (s.accept).readX j = s.readX j := rfl
@[simp] theorem accept_readV (j i : Nat) : (s.accept).readV j i = s.readV j i := rfl

end

/-! ## nextInput -/

section
variable (s : State)

@[simp] theorem nextInput_cfg : (s.nextInput).cfg = s.cfg := rfl
@[simp] theorem nextInput_state : (s.nextInput).state = s.state := rfl
@[simp] theorem nextInput_dim : (s.nextInput).dim = s.dim := rfl
@[simp] theorem nextInput_n : (s.nextInput).n = s.n := rfl
@[simp] theorem nextInput_lastErr : (s.nextInput).lastErr = s.lastErr := rfl
@[simp] theorem nextInput_v : (s.nextInput).v = s.v := rfl
@[simp] theorem nextInput_x : (s.nextInput).x = s.x := rfl
@[simp] theorem nextInput_hist : (s.nextInput).hist = s.hist := rfl
@[simp] theorem nextInput_rsp : (s.nextInput).rsp = s.rsp := rfl
@[simp] theorem nextInput_epoch : (s.nextInput).epoch = s.epoch := rfl
@[simp] theorem nextInput_program : (s.nextInput).program = s.program := rfl
@[simp] theorem nextInput_k : (s.nextInput).k = s.k := rfl
@[simp] theorem nextInput_inputs : (s.nextInput).inputs = s.inputs.tail := rfl
@[simp] theorem nextInput_taken : (s.nextInput).taken = s.taken := rfl
@[simp] theorem nextInput_readX (j : Nat) : (s.nextInput).readX j = s.readX j := rfl
@[simp] theorem nextInput_readV (j i : Nat) : (s.nextInput).readV j i = s.readV j i := rfl

end

/-! ## takeWord -/

section
variable (s : State)

@[simp] theorem takeWord_cfg : s.takeWord.cfg = s.cfg := by unfold takeWord; split <;> rfl
@[simp] theorem takeWord_state : s.takeWord.state = s.state := by unfold takeWord; split <;> rfl
@[simp] theorem takeWord_dim : s.takeWord.dim = s.dim := by unfold takeWord; split <;> rfl
@[simp] theorem takeWord_n : s.takeWord.n = s.n := by unfold takeWord; split <;> rfl
@[simp] theorem takeWord_lastErr : s.takeWord.lastErr = s.lastErr := by unfold takeWord; split <;> rfl
@[simp] theorem takeWord_v : s.takeWord.v = s.v := by unfold takeWord; split <;> rfl
@[simp] theorem takeWord_x : s.takeWord.x = s.x := by unfold takeWord; split <;> rfl
@[simp] theorem takeWord_hist : s.takeWord.hist = s.hist := by unfold takeWord; split <;> rfl
@[simp] theorem takeWord_epoch : s.takeWord.epoch = s.epoch := by unfold takeWord; split <;> rfl
@[simp] theorem takeWord_program : s.takeWord.program = s.program := by unfold takeWord; split <;> rfl
@[simp] theorem takeWord_k : s.takeWord.k = s.k := by unfold takeWord; split <;> rfl
@[simp] theorem takeWord_inputs : s.takeWord.inputs = s.inputs := by unfold takeWord; split <;> rfl
@[simp] theorem takeWord_rsp : s.takeWord.rsp = s.rsp.tail := by
  unfold takeWord; split <;> rename_i h <;> simp [h]
@[simp] theorem takeWord_taken : s.takeWord.taken = s.taken ++ s.rsp.take 1 := by
  unfold takeWord; split <;> rename_i h <;> simp [h]
@[simp] theorem takeWord_readX (j : Nat) : s.takeWord.readX j = s.readX j := by simp [readX]
@[simp] theorem takeWord_readV (j i : Nat) : s.takeWord.readV j i = s.readV j i := by simp [readV]

end

/-! ## withFetchWord's list, and reset -/

@[simp] theorem resetWith_cfg (c : Config) : (resetWith c).cfg = c := rfl
@[simp] theorem resetWith_state (c : Config) : (resetWith c).state = .empty := rfl
@[simp] theorem resetWith_dim (c : Config) : (resetWith c).dim = 0#16 := rfl
@[simp] theorem resetWith_n (c : Config) : (resetWith c).n = 0#32 := rfl
@[simp] theorem resetWith_lastErr (c : Config) : (resetWith c).lastErr = 0x00#8 := rfl
@[simp] theorem resetWith_v (c : Config) : (resetWith c).v = [] := rfl
@[simp] theorem resetWith_x (c : Config) : (resetWith c).x = [] := rfl
@[simp] theorem resetWith_hist (c : Config) : (resetWith c).hist = [] := rfl
@[simp] theorem resetWith_rsp (c : Config) : (resetWith c).rsp = [] := rfl
@[simp] theorem resetWith_epoch (c : Config) : (resetWith c).epoch = 0 := rfl
@[simp] theorem resetWith_program (c : Config) : (resetWith c).program = [] := rfl
@[simp] theorem resetWith_k (c : Config) : (resetWith c).k = 0 := rfl
@[simp] theorem resetWith_inputs (c : Config) : (resetWith c).inputs = [] := rfl
@[simp] theorem resetWith_taken (c : Config) : (resetWith c).taken = [] := rfl

/-- The word at position k of the list that `withFetchWord` places is the word. -/
theorem programWith_at (program : List Word) (k : Nat) (w : Word) : (programWith program k w)[k]? = some w := by
  have h : (program.take k ++ List.replicate (k - program.length) (0#32 : Word)).length = k := by simp; omega
  rw [programWith, List.getElem?_append_right (Nat.le_of_eq h), h]
  simp

end Sys2Proof.Machine.State
end

