-- ==== Sys2Proof/Laws/Builder.lean ====
section
/-! SUPPORT. The builder's shape (40_construct.md R80, R85): an admitted configuration has every entry that
is read, and every row has 32 columns. -/

namespace Sys2Proof.Machine

theorem seedColumns_length (e : DntEntry) : (seedColumns e).length = e.s := by simp [seedColumns]

theorem extendRow_length (e : DntEntry) (count : Nat) (l : List Word) :
    (extendRow e count l).length = l.length + count := by
  induction count generalizing l with
  | zero => rfl
  | succ count ih => rw [extendRow, ih, List.length_cons]; omega

theorem tableRow_length (e : DntEntry) (h : e.s ≤ 32) : (tableRow e).length = 32 := by
  simp [tableRow, extendRow_length, seedColumns_length]; omega

@[simp] theorem rowZero_length (c : Config) : (rowZero c).length = 32 := by simp [rowZero]

/-- The bounds an admitted configuration gives (00_scope.md R6). -/
theorem admitted_bounds (c : Config) : 1 ≤ c.maxDim ∧ c.maxDim ≤ 65535 ∧ c.maxDim - 1 ≤ c.dnt.length := by
  have h := c.ok
  simp only [Params.admitted, Bool.and_eq_true, decide_eq_true_eq] at h
  exact ⟨h.1.1.1, h.1.1.2, h.1.2⟩

/-- Every entry the builder reads exists and is well formed (20_memory.md R43). -/
theorem romEntry_admitted (c : Config) {j : Nat} (h1 : 1 ≤ j) (h2 : j < c.maxDim) :
    ∃ e, romEntry c j = some e ∧ e.wellFormed = true := by
  have hb := admitted_bounds c
  have h := c.ok
  simp only [Params.admitted, Bool.and_eq_true, List.all_eq_true] at h
  have hj : j - 1 < c.dnt.length := by omega
  refine ⟨c.dnt[j - 1], by simp [romEntry, hj]; omega, h.2 _ ?_⟩
  exact List.mem_take_iff_getElem.2 ⟨j - 1, by omega, rfl⟩

/-- A well-formed entry's degree is in [1, 32] (20_memory.md R42 (1), (2)). -/
theorem wellFormed_degree {e : DntEntry} (h : e.wellFormed = true) : 1 ≤ e.s ∧ e.s ≤ 32 := by
  simp only [DntEntry.wellFormed, Bool.and_eq_true, decide_eq_true_eq] at h
  exact ⟨h.1.1.1.1, h.1.1.1.2⟩

@[simp] theorem buildRow_zero (c : Config) : buildRow c 0 = rowZero c := rfl

theorem buildRow_of_romEntry {c : Config} {j : Nat} {e : DntEntry} (h0 : j ≠ 0) (h : romEntry c j = some e) :
    buildRow c j = tableRow e := by simp [buildRow, h0, h]

theorem buildRow_length (c : Config) {j : Nat} (h : j < c.maxDim) : (buildRow c j).length = 32 := by
  by_cases h0 : j = 0
  · subst h0; simp
  · obtain ⟨e, he, hw⟩ := romEntry_admitted c (Nat.one_le_iff_ne_zero.2 h0) h
    rw [buildRow_of_romEntry h0 he, tableRow_length e (wellFormed_degree hw).2]

@[simp] theorem build_length (c : Config) (d : Nat) : (build c d).length = d := by simp [build]

theorem build_getElem? (c : Config) {d j : Nat} (h : j < d) : (build c d)[j]? = some (buildRow c j) := by
  simp [build, h]

/-- A cell of a state whose V is BUILD(d) is the builder's word. -/
theorem readV_of_matrix {s : State} {d j i : Nat} (hv : s.v = build s.cfg d) (hd : d ≤ s.cfg.maxDim) (hj : j < d)
    (h1 : 1 ≤ i) (h32 : i ≤ 32) : (buildRow s.cfg j)[i - 1]? = some (s.readV j i) := by
  have hl : i - 1 < (buildRow s.cfg j).length := by rw [buildRow_length s.cfg (by omega)]; omega
  have h0 : i ≠ 0 := by omega
  simp [State.readV, h0, hv, build_getElem? s.cfg hj, hl]

end Sys2Proof.Machine
end

