-- ==== Sys2Proof/Laws/Encoding.lean ====
section
/-! SUPPORT. The fields of the words the model puts together (30_encoding.md R61, R67). -/

namespace Sys2Proof

/-! ## Command words -/

theorem fieldOp_wordOfFields (op : BitVec 4) (i z : BitVec 6) (j : BitVec 16) :
    fieldOp (wordOfFields op i z j) = op := by
  unfold fieldOp wordOfFields
  ext k hk
  simp [show 28 + k < 32 by omega, hk, show ¬ 28 + k < 22 by omega,
    i.getLsbD_of_ge (28 + k - 22) (by omega), z.getLsbD_of_ge (28 + k - 16) (by omega),
    j.getLsbD_of_ge (28 + k) (by omega)]

theorem fieldI_wordOfFields (op : BitVec 4) (i z : BitVec 6) (j : BitVec 16) :
    fieldI (wordOfFields op i z j) = i := by
  unfold fieldI wordOfFields
  ext k hk
  simp [show 22 + k < 32 by omega, show 22 + k < 28 by omega, hk, show ¬ 22 + k < 16 by omega,
    z.getLsbD_of_ge (22 + k - 16) (by omega), j.getLsbD_of_ge (22 + k) (by omega)]

theorem fieldZ_wordOfFields (op : BitVec 4) (i z : BitVec 6) (j : BitVec 16) :
    fieldZ (wordOfFields op i z j) = z := by
  unfold fieldZ wordOfFields
  ext k hk
  simp [show 16 + k < 32 by omega, show 16 + k < 28 by omega, show 16 + k < 22 by omega, hk]

theorem fieldJ_wordOfFields (op : BitVec 4) (i z : BitVec 6) (j : BitVec 16) :
    fieldJ (wordOfFields op i z j) = j := by
  unfold fieldJ wordOfFields
  ext k hk
  simp [show k < 32 by omega, show k < 28 by omega, show k < 22 by omega, hk]

theorem fieldOp_wordOfOpRest (op : BitVec 4) (rest : BitVec 28) : fieldOp (wordOfOpRest op rest) = op := by
  unfold fieldOp wordOfOpRest
  ext k hk
  simp [show 28 + k < 32 by omega, hk]

theorem fieldRest_wordOfOpRest (op : BitVec 4) (rest : BitVec 28) : fieldRest (wordOfOpRest op rest) = rest := by
  unfold fieldRest wordOfOpRest
  ext k hk
  simp [show k < 32 by omega, hk]

/-- A word is its opcode and the 28 bits below it. -/
theorem wordOfOpRest_fields (w : Word) : wordOfOpRest (fieldOp w) (fieldRest w) = w := by
  unfold wordOfOpRest fieldOp fieldRest
  ext k hk
  by_cases h : k < 28
  · simp [hk, h]
  · simp [hk, h, show k - 28 < 4 by omega, show 28 + (k - 28) = k by omega]

/-- A word is its four fields. -/
theorem wordOfFields_fields (w : Word) : wordOfFields (fieldOp w) (fieldI w) (fieldZ w) (fieldJ w) = w := by
  unfold wordOfFields fieldOp fieldI fieldZ fieldJ
  ext k hk
  by_cases h1 : k < 16
  · simp [hk, h1, show k < 22 by omega, show k < 28 by omega]
  · by_cases h2 : k < 22
    · simp [hk, h1, h2, show k < 28 by omega, show k - 16 < 6 by omega,
        show 16 + (k - 16) = k by omega]
    · by_cases h3 : k < 28
      · simp [hk, h1, h2, h3, show ¬ k - 16 < 6 by omega, show k - 22 < 6 by omega, show 22 + (k - 22) = k by omega]
      · simp [hk, h1, h2, h3, show ¬ k - 16 < 6 by omega, show ¬ k - 22 < 6 by omega, show k - 28 < 4 by omega,
          show 28 + (k - 28) = k by omega]

/-- A bit below the opcode is the word's bit. -/
theorem fieldRest_getLsbD (w : Word) (k : Nat) : (fieldRest w).getLsbD k = (decide (k < 28) && w.getLsbD k) := by
  simp [fieldRest]

theorem fieldI_getLsbD (w : Word) (k : Nat) : (fieldI w).getLsbD k = (decide (k < 6) && w.getLsbD (22 + k)) := by
  simp [fieldI]

theorem fieldZ_getLsbD (w : Word) (k : Nat) : (fieldZ w).getLsbD k = (decide (k < 6) && w.getLsbD (16 + k)) := by
  simp [fieldZ]

theorem fieldJ_getLsbD (w : Word) (k : Nat) : (fieldJ w).getLsbD k = (decide (k < 16) && w.getLsbD k) := by
  simp [fieldJ]

/-- The 28 bits below the opcode are zero when I, Z and J are. -/
theorem fieldRest_eq_zero_iff (w : Word) : fieldRest w = 0#28 ↔ fieldI w = 0#6 ∧ fieldZ w = 0#6 ∧ fieldJ w = 0#16 := by
  constructor
  · intro h
    have bit (k : Nat) (hk : k < 28) : w.getLsbD k = false := by
      have e := congrArg (·.getLsbD k) h
      simp only [fieldRest_getLsbD, hk, decide_true, Bool.true_and] at e
      simpa using e
    refine ⟨?_, ?_, ?_⟩ <;> apply BitVec.eq_of_getLsbD_eq <;> intro k hk
    · rw [fieldI_getLsbD, bit (22 + k) (by omega)]; simp
    · rw [fieldZ_getLsbD, bit (16 + k) (by omega)]; simp
    · rw [fieldJ_getLsbD, bit k (by omega)]; simp
  · rintro ⟨hi, hz, hj⟩
    apply BitVec.eq_of_getLsbD_eq
    intro k hk
    have ei := congrArg (·.getLsbD (k - 22)) hi
    have ez := congrArg (·.getLsbD (k - 16)) hz
    have ej := congrArg (·.getLsbD k) hj
    simp only [fieldI_getLsbD, fieldZ_getLsbD, fieldJ_getLsbD, BitVec.getLsbD_zero, Bool.and_eq_false_iff,
      decide_eq_false_iff_not] at ei ez ej
    rw [fieldRest_getLsbD]
    by_cases h1 : k < 16
    · simp [ej.resolve_left (by omega)]
    · by_cases h2 : k < 22
      · simp [show 16 + (k - 16) = k by omega] at ez
        simp [ez.resolve_left (by omega)]
      · simp [show 22 + (k - 22) = k by omega] at ei
        simp [ei.resolve_left (by omega)]

namespace Machine

/-! ## Response words -/

theorem respLen_respWord (len : Nat) (op : BitVec 4) (code : StatusCode) (h : len < 65536) :
    respLen (respWord len op code) = len := by
  have e : (respWord len op code).extractLsb' 16 16 = BitVec.ofNat 16 len := by
    unfold respWord
    ext k hk
    rw [← BitVec.getLsbD_eq_getElem hk, ← BitVec.getLsbD_eq_getElem hk, BitVec.getLsbD_ofNat]
    have e := BitVec.getLsbD_ofNat 32 len k
    rw [BitVec.getLsbD_eq_getElem (show k < 32 by omega)] at e
    simp [e, show k < 32 by omega, show 16 + k < 32 by omega, show ¬ 16 + k < 12 by omega, show ¬ 16 + k < 16 by omega, hk,
      op.getLsbD_of_ge (16 + k - 12) (by omega), code.toByte.getLsbD_of_ge (16 + k) (by omega)]
  rw [respLen, e, BitVec.toNat_ofNat]
  omega

theorem respOp_respWord (len : Nat) (op : BitVec 4) (code : StatusCode) : respOp (respWord len op code) = op := by
  unfold respOp respWord
  ext k hk
  simp [show 12 + k < 32 by omega, show 12 + k < 16 by omega, hk,
    code.toByte.getLsbD_of_ge (12 + k) (by omega)]

theorem respReserved_respWord (len : Nat) (op : BitVec 4) (code : StatusCode) :
    respReserved (respWord len op code) = 0#4 := by
  unfold respReserved respWord
  ext k hk
  simp [show 8 + k < 32 by omega, show 8 + k < 16 by omega, show 8 + k < 12 by omega]

theorem respCode_respWord (len : Nat) (op : BitVec 4) (code : StatusCode) :
    respCode (respWord len op code) = code.toByte := by
  unfold respCode respWord
  ext k hk
  simp [show k < 32 by omega, show k < 16 by omega, show k < 12 by omega, hk]

theorem StatusCode.toByte_eq_ok (code : StatusCode) : code.toByte = 0x00#8 ↔ code = .ok := by
  cases code <;> decide

theorem StatusCode.toByte_le (code : StatusCode) : code.toByte.toNat ≤ 5 := by cases code <;> decide

end Machine

end Sys2Proof
end

