-- ==== Sys2Proof/Laws/Storage.lean ====
section
/-! SUPPORT. Every operation keeps the canonical form of the stores, and reset has it. -/

namespace Sys2Proof.Machine

/-- The canonical form, as a conjunction. -/
theorem Memory.wf_iff (s : State) : Memory.wf s = true ↔
    s.v.length = s.dim.toNat ∧ (∀ row ∈ s.v, row.length = 32) ∧ s.x.length = s.dim.toNat ∧
      s.hist.length = s.dim.toNat := by
  simp only [Memory.wf, Bool.and_eq_true, decide_eq_true_eq, List.all_eq_true]
  constructor
  · rintro ⟨⟨⟨h1, h2⟩, h3⟩, h4⟩; exact ⟨h1, h2, h3, h4⟩
  · rintro ⟨h1, h2, h3, h4⟩; exact ⟨⟨⟨h1, h2⟩, h3⟩, h4⟩

/-- The canonical form depends on DIM and the three stores alone. -/
theorem Memory.wf_congr {s t : State} (hd : t.dim = s.dim) (hv : t.v = s.v) (hx : t.x = s.x) (hh : t.hist = s.hist) :
    Memory.wf t = Memory.wf s := by simp only [Memory.wf, hd, hv, hx, hh]

@[simp] theorem State.newPoint_length (s : State) : s.newPoint.length = s.dim.toNat := by simp [State.newPoint]

theorem State.newPoint_getElem? (s : State) {j : Nat} (h : j < s.dim.toNat) : s.newPoint[j]? = some (s.newWord j) := by
  simp [State.newPoint, h]

theorem Memory.wf_construct (s : State) (d : BitVec 16) (h : d.toNat ≤ s.cfg.maxDim) :
    Memory.wf (s.construct d) = true := by
  refine (Memory.wf_iff _).2 ⟨by simp, ?_, by simp, by simp⟩
  intro row hrow
  simp only [State.construct_v, build, List.mem_map, List.mem_range] at hrow
  obtain ⟨j, hj, rfl⟩ := hrow
  exact buildRow_length s.cfg (by omega)

theorem Memory.wf_advance {s : State} (h : Memory.wf s = true) : Memory.wf s.advance = true := by
  obtain ⟨hv, hr, -, -⟩ := (Memory.wf_iff s).1 h
  exact (Memory.wf_iff _).2 ⟨hv, hr, by simp, by simp⟩

@[simp] theorem Memory.wf_release (s : State) : Memory.wf s.release = true := rfl
@[simp] theorem Memory.wf_hardwareReset (s : State) : Memory.wf s.hardwareReset = true := rfl
@[simp] theorem Memory.wf_resetWith (c : Config) : Memory.wf (State.resetWith c) = true := rfl
theorem Memory.wf_reset : Memory.wf State.reset = true := rfl

@[simp] theorem Memory.wf_respond (s : State) (op : BitVec 4) (data : List Word) :
    Memory.wf (s.respond op data) = Memory.wf s := rfl
@[simp] theorem Memory.wf_raise (s : State) (op : BitVec 4) (code : StatusCode) :
    Memory.wf (s.raise op code) = Memory.wf s := rfl
@[simp] theorem Memory.wf_exhaust (s : State) : Memory.wf s.exhaust = Memory.wf s := rfl
@[simp] theorem Memory.wf_drain (s : State) : Memory.wf s.drain = Memory.wf s := rfl
@[simp] theorem Memory.wf_accept (s : State) : Memory.wf s.accept = Memory.wf s := rfl
@[simp] theorem Memory.wf_nextInput (s : State) : Memory.wf s.nextInput = Memory.wf s := rfl
@[simp] theorem Memory.wf_takeWord (s : State) : Memory.wf s.takeWord = Memory.wf s :=
  Memory.wf_congr (by simp) (by simp) (by simp) (by simp)

/-! ## What a read sees after the two operations that write the stores -/

theorem State.construct_readX (s : State) {d : BitVec 16} {j : Nat} (h : j < d.toNat) :
    (s.construct d).readX j = 0#32 := by simp [State.readX, h]

theorem State.advance_readX (s : State) {j : Nat} (h : j < s.dim.toNat) : s.advance.readX j = s.newWord j := by
  simp [State.readX, State.newPoint_getElem? s h]

theorem State.advance_hist_getElem? (s : State) {j : Nat} {l : List Word} (h : j < s.dim.toNat) (hl : s.hist[j]? = some l) :
    s.advance.hist[j]? = some (l ++ [s.newWord j]) := by simp [h, hl]

end Sys2Proof.Machine
end

