-- ==== Sys2Proof/Laws/Exec.lean ====
section
/-! SUPPORT. What `exec` can do, said once: every command answers a next state, and that state is one of six
shapes. Provers cite `exec_cases` instead of unfolding the meanings. -/

namespace Sys2Proof.Machine

/-- The commands that only observe (42_observe.md). -/
def isObserver : Instr → Bool
  | .nop => true
  | .cfg _ => false
  | .draw => false
  | .rdx _ => true
  | .rdv _ _ => true
  | .rdn => true
  | .stat => true
  | .rel => false
  | .illegal _ _ => false

theorem dimCountOk_iff (c : Config) (d : BitVec 16) : dimCountOk c d = true ↔ d ≠ 0#16 ∧ d.toNat ≤ c.maxDim := by
  simp [dimCountOk]

theorem dimIndexOk_iff (s : State) (j : BitVec 16) : dimIndexOk s j = true ↔ j.toNat < s.dim.toNat := by
  simp [dimIndexOk]

theorem columnOk_iff (i : BitVec 6) : columnOk i = true ↔ 1 ≤ i.toNat ∧ i.toNat ≤ 32 := by simp [columnOk]

/-- Every command that answers a next state does exactly one of these: fail, exhaust the counter, report,
construct, advance, release. -/
theorem exec_cases {i : Instr} {s t : State} (h : exec i s = .next t) :
    (∃ code, code ≠ .ok ∧ t = s.raise i.opcode code) ∨
    (i = .draw ∧ s.state = .ready ∧ s.n = 0xFFFFFFFF#32 ∧ t = s.exhaust.raise 0x2#4 .counterExhausted) ∨
    (∃ data, isObserver i = true ∧ t = s.respond i.opcode data) ∨
    (∃ d, i = .cfg d ∧ d ≠ 0#16 ∧ d.toNat ≤ s.cfg.maxDim ∧ t = (s.construct d).respond 0x1#4 []) ∨
    (i = .draw ∧ s.state = .ready ∧ s.n ≠ 0xFFFFFFFF#32 ∧ t = s.advance.respond 0x2#4 s.newPoint) ∨
    (i = .rel ∧ t = s.release.respond 0x7#4 []) := by
  cases i <;>
    simp only [exec, execNop, execCfg, execDraw, execRdx, execRdv, execRdn, execStat, execRel, execIllegal,
      Host.Outcome.next.injEq] at h <;> subst h
  case nop => exact .inr (.inr (.inl ⟨[], rfl, rfl⟩))
  case cfg d =>
    by_cases hd : dimCountOk s.cfg d = true
    · obtain ⟨h0, hm⟩ := (dimCountOk_iff _ _).1 hd
      exact .inr (.inr (.inr (.inl ⟨d, rfl, h0, hm, by simp [hd]⟩)))
    · exact .inl ⟨.configError, by decide, by simp [hd, Instr.opcode]⟩
  case draw =>
    cases hs : s.state
    · exact .inl ⟨.noEngine, by decide, rfl⟩
    · by_cases hn : s.n = 0xFFFFFFFF#32
      · exact .inr (.inl ⟨rfl, rfl, hn, by simp [hn]⟩)
      · exact .inr (.inr (.inr (.inr (.inl ⟨rfl, rfl, hn, by simp [hn]⟩))))
    · exact .inl ⟨.counterExhausted, by decide, rfl⟩
  case rdx j =>
    split
    · exact .inl ⟨.noEngine, by decide, rfl⟩
    · split
      · exact .inr (.inr (.inl ⟨_, rfl, rfl⟩))
      · exact .inl ⟨.indexRange, by decide, rfl⟩
  case rdv j i =>
    split
    · exact .inl ⟨.noEngine, by decide, rfl⟩
    · split
      · exact .inr (.inr (.inl ⟨_, rfl, rfl⟩))
      · exact .inl ⟨.indexRange, by decide, rfl⟩
  case rdn =>
    split
    · exact .inl ⟨.noEngine, by decide, rfl⟩
    · exact .inr (.inr (.inl ⟨_, rfl, rfl⟩))
  case stat => exact .inr (.inr (.inl ⟨_, rfl, rfl⟩))
  case rel => exact .inr (.inr (.inr (.inr (.inr ⟨rfl, rfl⟩))))
  case illegal op rest => exact .inl ⟨.illegalCommand, by decide, rfl⟩

/-- No command touches the configuration or the host's side. -/
theorem exec_outside {i : Instr} {s t : State} (h : exec i s = .next t) :
    t.cfg = s.cfg ∧ t.program = s.program ∧ t.k = s.k ∧ t.inputs = s.inputs ∧ t.taken = s.taken := by
  obtain ⟨_, _, rfl⟩ | ⟨_, _, _, rfl⟩ | ⟨_, _, rfl⟩ | ⟨_, _, _, _, rfl⟩ | ⟨_, _, _, rfl⟩ | ⟨_, rfl⟩ := exec_cases h <;>
    simp

/-! ## DRAW, by its conditions -/

theorem exec_draw_advances {s : State} (hs : s.state = .ready) (hn : s.n ≠ 0xFFFFFFFF#32) :
    exec .draw s = .next (s.advance.respond 0x2#4 s.newPoint) := by simp [exec, execDraw, hs, hn]

theorem exec_draw_exhausts {s : State} (hs : s.state = .ready) (hn : s.n = 0xFFFFFFFF#32) :
    exec .draw s = .next (s.exhaust.raise 0x2#4 .counterExhausted) := by simp [exec, execDraw, hs, hn]

theorem exec_draw_empty {s : State} (hs : s.state = .empty) : exec .draw s = .next (s.raise 0x2#4 .noEngine) := by
  simp [exec, execDraw, hs]

theorem exec_draw_exhausted {s : State} (hs : s.state = .exhausted) :
    exec .draw s = .next (s.raise 0x2#4 .counterExhausted) := by simp [exec, execDraw, hs]

/-! ## CFG, RDX, RDV and RDN, by their conditions -/

theorem exec_cfg_constructs {s : State} {d : BitVec 16} (h0 : d ≠ 0#16) (hm : d.toNat ≤ s.cfg.maxDim) :
    exec (.cfg d) s = .next ((s.construct d).respond 0x1#4 []) := by
  simp [exec, execCfg, (dimCountOk_iff s.cfg d).2 ⟨h0, hm⟩]

theorem exec_rdx_empty {s : State} (j : BitVec 16) (hs : s.state = .empty) :
    exec (.rdx j) s = .next (s.raise 0x3#4 .noEngine) := by simp [exec, execRdx, hs]

theorem exec_rdx_reads {s : State} {j : BitVec 16} (hs : s.state ≠ .empty) (hj : j.toNat < s.dim.toNat) :
    exec (.rdx j) s = .next (s.respond 0x3#4 [s.readX j.toNat]) := by simp [exec, execRdx, hs, dimIndexOk, hj]

theorem exec_rdv_empty {s : State} (j : BitVec 16) (i : BitVec 6) (hs : s.state = .empty) :
    exec (.rdv j i) s = .next (s.raise 0x4#4 .noEngine) := by simp [exec, execRdv, hs]

theorem exec_rdv_reads {s : State} {j : BitVec 16} {i : BitVec 6} (hs : s.state ≠ .empty)
    (hj : j.toNat < s.dim.toNat) (h1 : 1 ≤ i.toNat) (h32 : i.toNat ≤ 32) :
    exec (.rdv j i) s = .next (s.respond 0x4#4 [s.readV j.toNat i.toNat]) := by
  simp [exec, execRdv, hs, dimIndexOk, columnOk, hj, h1, h32]

theorem exec_rdn_reads {s : State} (hs : s.state ≠ .empty) : exec .rdn s = .next (s.respond 0x5#4 [s.n]) := by
  simp [exec, execRdn, hs]

end Sys2Proof.Machine
end

