-- ==== Sys2Proof/Laws/Draw.lean ====
section
/-! SUPPORT. What the operations under DRAW and CFG can do, said once: the column selector, the Gray code, the
closed form's base, the builder's recurrence on lists, and runs of draws. -/

namespace Sys2Proof.Machine

/-! ## The column selector and the Gray code -/

/-- `trailingOnes` counts ones from bit 0, and stops at a zero bit if it stops early. -/
theorem trailingOnes_spec (fuel : Nat) (w : Word) : trailingOnes fuel w ≤ fuel ∧
    (∀ b, b < trailingOnes fuel w → w.getLsbD b = true) ∧
    (trailingOnes fuel w < fuel → w.getLsbD (trailingOnes fuel w) = false) := by
  induction fuel generalizing w with
  | zero => simp [trailingOnes]
  | succ fuel ih =>
    rw [trailingOnes]
    by_cases h : w.getLsbD 0 = true
    · rw [if_pos h]
      obtain ⟨hle, hones, hzero⟩ := ih (w >>> 1)
      refine ⟨by omega, fun k hk => ?_, fun hk => ?_⟩
      · cases k with
        | zero => exact h
        | succ k => simpa [Nat.add_comm] using hones k (by omega)
      · simpa using hzero (by omega)
    · rw [if_neg h]
      simp only [Bool.not_eq_true] at h
      exact ⟨by omega, by simp, fun _ => h⟩

theorem gray_getLsbD (n : Word) (k : Nat) : (gray n).getLsbD k = (n.getLsbD k ^^ n.getLsbD (k + 1)) := by
  simp [gray, Nat.add_comm]

/-- A fold that XORs selected words is the fold from zero, XORed with the start. -/
theorem foldl_xor_start (l : List Nat) (p : Nat → Bool) (f : Nat → Word) (a : Word) :
    l.foldl (fun acc b => if p b then acc ^^^ f b else acc) a =
      a ^^^ l.foldl (fun acc b => if p b then acc ^^^ f b else acc) 0#32 := by
  induction l generalizing a with
  | nil => simp
  | cons b l ih =>
    simp only [List.foldl_cons]
    rw [ih, ih (if p b then 0#32 ^^^ f b else 0#32)]
    by_cases h : p b = true
    · simp [h, BitVec.xor_assoc]
    · simp [h]

/-- gray(0) selects no column. -/
theorem closedPoint_zero (column : Nat → Word) : closedPoint column 0#32 = 0#32 := by
  have h (l : List Nat) :
      l.foldl (fun acc b => if (gray 0#32).getLsbD b then acc ^^^ column (b + 1) else acc) 0#32 = 0#32 := by
    induction l with
    | nil => rfl
    | cons b l ih => simp only [List.foldl_cons, show (gray 0#32).getLsbD b = false by simp [gray], Bool.false_eq_true, if_false, ih]
  exact h _

/-! ## The builder's list, newest first -/

/-- The columns already there stay behind the ones that are added. -/
theorem extendRow_suffix (e : DntEntry) (count : Nat) (l : List Word) :
    ∃ added, added.length = count ∧ extendRow e count l = added ++ l := by
  induction count generalizing l with
  | zero => exact ⟨[], rfl, rfl⟩
  | succ count ih =>
    obtain ⟨added, h1, h2⟩ := ih (nextColumn e l :: l)
    exact ⟨added ++ [nextColumn e l], by simp [h1], by rw [extendRow, h2]; simp⟩

/-- Adding a + b columns is adding a, then b. -/
theorem extendRow_add (e : DntEntry) (a b : Nat) (l : List Word) :
    extendRow e (a + b) l = extendRow e b (extendRow e a l) := by
  induction a generalizing l with
  | zero => simp [extendRow]
  | succ a ih => rw [show a + 1 + b = (a + b) + 1 by omega, extendRow, ih, extendRow]

/-! ## Constructed engines and runs of draws -/

/-- What a successful CFG left (40_construct.md R87). -/
theorem JustConstructed.facts {c : Config} {d : BitVec 16} {s : State} (h : JustConstructed c d s) :
    s.cfg = c ∧ s.state = .ready ∧ s.dim = d ∧ s.n = 0#32 ∧ s.v = build c d.toNat ∧
      (∀ j, j < d.toNat → s.readX j = 0#32) ∧ d.toNat ≤ c.maxDim ∧ d ≠ 0#16 := by
  obtain ⟨h0, hm, s₀, hc, he⟩ := h
  rw [exec_cfg_constructs h0 (by rw [hc]; exact hm), Host.Outcome.next.injEq] at he
  subst he
  exact ⟨hc, rfl, rfl, rfl, by simp [hc], fun j hj => by simp [State.construct_readX _ hj], hm, h0⟩

/-- What m successful draws leave alone, and where the counter is. -/
theorem Draws.facts {s t : State} {m : Nat} (h : Draws s m t) (hs : s.state = .ready) :
    t.cfg = s.cfg ∧ t.state = .ready ∧ t.dim = s.dim ∧ t.v = s.v ∧ t.epoch = s.epoch ∧
      t.n.toNat = s.n.toNat + m := by
  induction h with
  | none => exact ⟨rfl, hs, rfl, rfl, rfl, rfl⟩
  | @more m t u _ hr hn he ih =>
    obtain ⟨h1, h2, h3, h4, h5, h6⟩ := ih
    rw [exec_draw_advances hr hn, Host.Outcome.next.injEq] at he
    subst he
    refine ⟨h1, h2, h3, h4, h5, ?_⟩
    have hlt := t.n.isLt
    have hne : t.n.toNat ≠ 0xFFFFFFFF := fun h => hn (BitVec.eq_of_toNat_eq h)
    simp only [State.respond_n, State.advance_n, BitVec.toNat_add, BitVec.toNat_ofNat]
    omega

/-- One successful draw more. -/
theorem Draws.step {s t : State} {m : Nat} (h : Draws s m t) (hr : t.state = .ready) (hn : t.n ≠ 0xFFFFFFFF#32) :
    Draws s (m + 1) (t.advance.respond 0x2#4 t.newPoint) := .more h hr hn (exec_draw_advances hr hn)

end Sys2Proof.Machine
end

