-- ==== Sys2Proof/Laws/PerInstr.lean ====
section
/-! SUPPORT. A statement about every constructor of `Instr` as syntax: the field OP of a command's word is the
opcode its response echoes (30_encoding.md R61, R63, R67). -/

namespace Sys2Proof.Laws.OpcodeField

/-- Bits 31:28 of the command's word are its opcode. -/
def Statement (i : Instr) : Prop := fieldOp (encode i) = i.opcode

theorem nop : Statement .nop := fieldOp_wordOfFields _ _ _ _

theorem cfg (d : BitVec 16) : Statement (.cfg d) := fieldOp_wordOfFields _ _ _ _

theorem draw : Statement .draw := fieldOp_wordOfFields _ _ _ _

theorem rdx (j : BitVec 16) : Statement (.rdx j) := fieldOp_wordOfFields _ _ _ _

theorem rdv (j : BitVec 16) (i : BitVec 6) : Statement (.rdv j i) := fieldOp_wordOfFields _ _ _ _

theorem rdn : Statement .rdn := fieldOp_wordOfFields _ _ _ _

theorem stat : Statement .stat := fieldOp_wordOfFields _ _ _ _

theorem rel : Statement .rel := fieldOp_wordOfFields _ _ _ _

theorem illegal (op : BitVec 4) (rest : BitVec 28) : Statement (.illegal op rest) := fieldOp_wordOfOpRest _ _

end Sys2Proof.Laws.OpcodeField
end

