-- ==== Sys2Proof/Laws/Step.lean ====
section
/-! SUPPORT. What a step can do, said once. -/

namespace Sys2Proof.Machine

/-- What the host's action brings: nothing but the host's own side changes; or one word is taken; or reset; or
a command is accepted on the drained state. `s₀` is `s` with the action used up, or `s` itself. -/
theorem present_quiet {s t : State} (h : s.present = .quiet t) :
    ∃ s₀, (s₀ = s ∨ s₀ = s.nextInput) ∧
      (t = s₀ ∨ t = s₀.takeWord ∨
        (s.inputs.head? = some .reset ∧ t = s₀.hardwareReset) ∨
        (s.inputs.head? = some .resetInFlight ∧
          (t = s₀.hardwareReset ∨ ((∃ w, s.offered = some w) ∧ t = s₀.drain.accept.hardwareReset)))) := by
  unfold State.present at h
  split at h
  · simp only [State.presentRun] at h
    split at h <;> simp at h
    exact ⟨s, .inl rfl, .inl h.symm⟩
  · simp only [State.presentRun] at h
    split at h <;> simp at h
    exact ⟨_, .inr rfl, .inl h.symm⟩
  · simp only [State.presentOffer, State.presentRun] at h
    split at h
    · split at h <;> simp at h
      exact ⟨_, .inr rfl, .inl h.symm⟩
    · simp at h
      exact ⟨_, .inr rfl, .inl h.symm⟩
  · simp at h
    exact ⟨_, .inr rfl, .inr (.inl h.symm)⟩
  · simp at h
    exact ⟨_, .inr rfl, .inl h.symm⟩
  · rename_i hi
    simp at h
    exact ⟨_, .inr rfl, .inr (.inr (.inl ⟨by simp [hi], h.symm⟩))⟩
  · rename_i hi
    simp only [State.presentResetInFlight] at h
    refine ⟨_, .inr rfl, .inr (.inr (.inr ⟨by simp [hi], ?_⟩))⟩
    split at h
    · simp at h
      exact .inl h.symm
    · rename_i w hw
      simp at h
      exact .inr ⟨⟨w, by simpa [State.offered] using hw⟩, h.symm⟩
  · split at h
    · simp only [State.presentRun] at h
      split at h <;> simp at h
      exact ⟨s, .inl rfl, .inl h.symm⟩
    · simp at h

theorem presentRun_command {s s' : State} {w : Word} (h : s.presentRun = .command w s') :
    s.offered = some w ∧ s' = s.drain.accept := by
  simp only [State.presentRun] at h
  split at h <;> simp at h
  rename_i hw
  exact ⟨by rw [hw, h.1], h.2.symm⟩

theorem present_command {s s' : State} {w : Word} (h : s.present = .command w s') :
    s.offered = some w ∧ ∃ s₀, (s₀ = s ∨ s₀ = s.nextInput) ∧ s' = s₀.drain.accept ∧
      s.inputs.head? ≠ some .reset ∧ s.inputs.head? ≠ some .resetInFlight := by
  unfold State.present at h
  split at h
  · rename_i hi
    obtain ⟨hw, rfl⟩ := presentRun_command h
    exact ⟨hw, s, .inl rfl, rfl, by simp [hi], by simp [hi]⟩
  · rename_i hi
    obtain ⟨hw, rfl⟩ := presentRun_command h
    exact ⟨hw, _, .inr rfl, rfl, by simp [hi], by simp [hi]⟩
  · rename_i hi
    simp only [State.presentOffer] at h
    split at h
    · obtain ⟨hw, rfl⟩ := presentRun_command h
      exact ⟨hw, _, .inr rfl, rfl, by simp [hi], by simp [hi]⟩
    · simp at h
  · simp at h
  · simp at h
  · simp at h
  · simp only [State.presentResetInFlight] at h
    split at h <;> simp at h
  · rename_i hi
    split at h
    · obtain ⟨hw, rfl⟩ := presentRun_command h
      exact ⟨hw, s, .inl rfl, rfl, by simp [hi], by simp [hi]⟩
    · simp at h

/-- A step that answers a next state: quiet, a word taken, reset, or one whole command. -/
theorem step_cases {s t : State} (h : step s = .next t) :
    ∃ s₀, (s₀ = s ∨ s₀ = s.nextInput) ∧
      (t = s₀ ∨ t = s₀.takeWord ∨
        (s.inputs.head? = some .reset ∧ t = s₀.hardwareReset) ∨
        (s.inputs.head? = some .resetInFlight ∧
          (t = s₀.hardwareReset ∨ ((∃ w, s.offered = some w) ∧ t = s₀.drain.accept.hardwareReset))) ∨
        ∃ w, s.offered = some w ∧ exec (decode w) s₀.drain.accept = .next t ∧
          s.inputs.head? ≠ some .reset ∧ s.inputs.head? ≠ some .resetInFlight) := by
  unfold step at h
  split at h
  · rename_i s' hp
    simp at h
    subst h
    obtain ⟨s₀, h0, h1⟩ := present_quiet hp
    exact ⟨s₀, h0, by tauto⟩
  · rename_i w s' hp
    obtain ⟨hw, s₀, h0, rfl, hr, hf⟩ := present_command hp
    exact ⟨s₀, h0, .inr (.inr (.inr (.inr ⟨w, hw, h, hr, hf⟩)))⟩
  · simp at h

/-- An invariant that the four changes of the host's side, reset and every command keep, every step keeps. -/
theorem step_induction {P : State → Prop} (hinput : ∀ s, P s → P s.nextInput) (htake : ∀ s, P s → P s.takeWord)
    (hreset : ∀ s, P s → P s.hardwareReset) (haccept : ∀ s, P s → P s.drain.accept)
    (hexec : ∀ i s t, P s → exec i s = .next t → P t) {s t : State} (hs : P s) (h : step s = .next t) : P t := by
  obtain ⟨s₀, h0, hc⟩ := step_cases h
  have hp : P s₀ := by
    obtain rfl | rfl := h0
    · exact hs
    · exact hinput _ hs
  obtain rfl | rfl | ⟨-, rfl⟩ | ⟨-, rfl | ⟨-, rfl⟩⟩ | ⟨w, -, he, -⟩ := hc
  · exact hp
  · exact htake _ hp
  · exact hreset _ hp
  · exact hreset _ hp
  · exact hreset _ (haccept _ hp)
  · exact hexec _ _ _ (haccept _ hp) he

end Sys2Proof.Machine
end

