-- ==== Sys2Proof/Tests/Slice0.lean ====
section
/-! SUPPORT. The model's own tests, each of one step, and for every statement with hypotheses a witness that
meets them. Every expected value of a test stands in spec/95_test_vectors.md (V1 to V12, P1 to P5) or in an
example of the rule named; none was read off the model. -/

namespace Sys2Proof.Tests

open Sys2Proof.Machine

/-! ## The test configuration TCFG of spec/95_test_vectors.md -/

/-- TESTROM. -/
def testRom : List DntEntry :=
  [⟨1, 0, [1]⟩, ⟨2, 1, [1, 3]⟩, ⟨3, 1, [1, 3, 1]⟩, ⟨3, 2, [1, 1, 1]⟩, ⟨4, 1, [1, 1, 3, 3]⟩,
    ⟨4, 4, [1, 3, 5, 13]⟩, ⟨5, 2, [1, 1, 5, 5, 17]⟩]

/-- TCFG, with the open word P. -/
def tcfg (p : Word) : Config where
  maxDim := 8
  dnt := testRom
  row0Col32 := p
  ok := rfl

/-- A field of the next state, if there is one. -/
def after {α : Type} (o : Host.Outcome State Fault Refusal) (f : State → α) : Option α :=
  match o with
  | .next s => some (f s)
  | .fault _ => none
  | .refused _ => none

/-- READY under TCFG (P = 7) at a given counter and point; DIM is the point's length. -/
def readyAt (n : Word) (x : List Word) : State :=
  { State.resetWith (tcfg 7#32) with
    state := .ready, dim := BitVec.ofNat 16 x.length, n := n, v := build (tcfg 7#32) x.length, x := x,
    hist := x.map (fun _ => []) }

/-- EXHAUSTED under TCFG (P = 7), DIM 2 (V10). -/
def exhausted2 : State := { readyAt 0xFFFFFFFF#32 [7#32, 0xFFFFFFFF#32] with state := .exhausted }

/-- EMPTY under TCFG (P = 7). -/
def empty : State := State.resetWith (tcfg 7#32)

/-- A state whose host holds one command and acts as given. -/
def hosted (s : State) (word : Word) (inputs : List HostInput) : State :=
  { s with program := [word], inputs := inputs }

/-! ## WellFormed: an ill-formed term for each way the check can refuse -/

theorem test_illformed_draw_word : (Instr.illegal 0x2#4 0#28).wellFormed = false := by decide
theorem test_illformed_cfg_word : (Instr.illegal 0x1#4 0x000FFFF#28).wellFormed = false := by decide
theorem test_illformed_rdv_word : (Instr.illegal 0x4#4 0xFC0FFFF#28).wellFormed = false := by decide
theorem test_wellformed_reserved : (Instr.illegal 0x8#4 0#28).wellFormed = true := by decide
theorem test_wellformed_z_bit : (Instr.illegal 0x4#4 0x0010000#28).wellFormed = true := by decide

/-! ## Admission (00_scope.md R6): one refused table for each condition of 20_memory.md R42 -/

theorem test_refused_maxdim_0 : (Params.mk 0 [] 0#32).admitted = false := by decide
theorem test_refused_maxdim_65536 : (Params.mk 65536 [] 0#32).admitted = false := by decide
theorem test_refused_missing_entry : (Params.mk 3 [⟨1, 0, [1]⟩] 0#32).admitted = false := by decide
theorem test_refused_degree_0 : (DntEntry.mk 0 0 []).wellFormed = false := by decide
theorem test_refused_degree_33 : (DntEntry.mk 33 0 (List.replicate 33 1)).wellFormed = false := by decide
theorem test_refused_wide_coefficient : (DntEntry.mk 2 2 [1, 1]).wellFormed = false := by decide
theorem test_refused_seed_zero : (DntEntry.mk 2 1 [1, 0]).wellFormed = false := by decide
theorem test_refused_seed_too_wide : (DntEntry.mk 2 1 [1, 4]).wellFormed = false := by decide
/-- 90_conflicts.md C2: an entry at index MAX_DIM may exist, of any form. -/
theorem test_entry_at_maxdim_ignored : (Params.mk 2 [⟨1, 0, [1]⟩, ⟨0, 9, []⟩] 0#32).admitted = true := by decide

/-! ## Decode: words written bit by bit from R61 and R63, and V1 -/

theorem test_decode_nop : decode 0b0000_000000_000000_0000000000000000#32 = .nop := by decide
theorem test_decode_cfg : decode 0b0001_000000_000000_0000000000000011#32 = .cfg 3#16 := by decide
theorem test_decode_draw : decode 0b0010_000000_000000_0000000000000000#32 = .draw := by decide
theorem test_decode_rdx : decode 0b0011_000000_000000_0000000000000101#32 = .rdx 5#16 := by decide
theorem test_decode_rdv : decode 0b0100_100000_000000_0000000000000001#32 = .rdv 1#16 32#6 := by decide
theorem test_decode_rdv_ones : decode 0x4FC0FFFF#32 = .rdv 65535#16 63#6 := by decide
theorem test_decode_rdn : decode 0b0101_000000_000000_0000000000000000#32 = .rdn := by decide
theorem test_decode_stat : decode 0b0110_000000_000000_0000000000000000#32 = .stat := by decide
theorem test_decode_rel : decode 0b0111_000000_000000_0000000000000000#32 = .rel := by decide
theorem test_decode_reserved : decode 0b1000_000000_000000_0000000000000000#32 = .illegal 8#4 0#28 := by decide
theorem test_decode_illegal_j : decode 0x00000001#32 = .illegal 0#4 1#28 := by decide
theorem test_decode_illegal_z : decode 0x10010000#32 = .illegal 1#4 0x10000#28 := by decide
theorem test_decode_illegal_i : decode 0x10400001#32 = .illegal 1#4 0x400001#28 := by decide
theorem test_decode_illegal_rdv_z : decode 0x40010000#32 = .illegal 4#4 0x10000#28 := by decide
theorem test_encode_rdv : encode (.rdv 0#16 1#6) = 0x40400000#32 := by decide
theorem test_bridge_order : bridgeBytes 0x1000ABCD#32 = [0xCD#8, 0xAB#8, 0x00#8, 0x10#8] := by decide
theorem test_decode_bytes : decodeBytes [0x03#8, 0x00#8, 0x00#8, 0x10#8, 0xAA#8] = .ok (.cfg 3#16, [0xAA#8]) := rfl
theorem test_decode_bytes_short : decodeBytes [0x03#8, 0x00#8, 0x00#8] = .error .truncatedWord := rfl

/-! ## The assembler (30_encoding.md R70; words of P2 and P3) -/

theorem test_asm_rdv : (assembleText ['R', 'd', 'V', ' ', '1', ',', ' ', '3', '3', ' ', ';', 'x']).toOption
    = some [0x48400001#32] := by decide
theorem test_asm_word : (assembleText ['.', 'w', 'o', 'r', 'd', ' ', '0', 'x', '9', '0', '0', '0', 'A', 'b', 'C', 'D', '\n',
    ';', '\n', 'd', 'r', 'a', 'w']).toOption = some [0x9000ABCD#32, 0x20000000#32] := by decide
theorem test_asm_too_wide : assemble (.cfg 65536) = .error .operandTooWide := rfl
theorem test_asm_no_pseudo : asmForm ['r', 'u', 'n'] [] = .error .unknownMnemonic := rfl

/-! ## The column selector (V2) -/

theorem test_rzb_low : [0#32, 1#32, 2#32, 3#32, 6#32, 7#32, 15#32].map rzb = [1, 2, 1, 3, 1, 4, 5] := by decide
theorem test_rzb_high : [0x7FFFFFFE#32, 0x7FFFFFFF#32, 0xFFFFFFFE#32, 0xFFFFFFFF#32].map rzb = [1, 32, 1, 33] := by
  decide

/-! ## The builder (V5, V6) -/

theorem test_row0 (p : Word) : (rowZero (tcfg p))[0]? = some 0x80000000#32 ∧
    (rowZero (tcfg p))[30]? = some 0x00000002#32 ∧ (rowZero (tcfg p))[31]? = some p := ⟨rfl, rfl, rfl⟩
theorem test_row2 : (tableRow ⟨2, 1, [1, 3]⟩).take 8 =
    [0x80000000#32, 0xC0000000#32, 0x60000000#32, 0x90000000#32, 0xE8000000#32, 0x5C000000#32, 0x8E000000#32,
      0xC5000000#32] := by decide
theorem test_row4 : (tableRow ⟨3, 2, [1, 1, 1]⟩).drop 28 =
    [0x800228F8#32, 0x400B3CDC#32, 0x200FB67A#32, 0xB00DDB9D#32] := by decide
theorem test_row7 : (tableRow ⟨5, 2, [1, 1, 5, 5, 17]⟩).drop 28 =
    [0x6CA48768#32, 0xD75B49E4#32, 0xCC95A082#32, 0x87639641#32] := by decide

/-! ## Commands (V3, V4, V7, V8, V10, V11, P3) -/

theorem test_nop : after (execNop empty) (fun s => (s.state, s.rsp)) = some (.empty, [0x00000000#32]) := by decide
theorem test_cfg_while_exhausted : after (execCfg 2#16 exhausted2) (fun s => (s.state, s.dim, s.n, s.x, s.rsp)) =
    some (.ready, 2#16, 0#32, [0#32, 0#32], [0x00001000#32]) := by decide
theorem test_cfg_9_keeps_engine : after (execCfg 9#16 (readyAt 5#32 [3#32, 4#32]))
    (fun s => (s.dim, s.n, s.x, s.lastErr, s.rsp)) = some (2#16, 5#32, [3#32, 4#32], 1#8, [0x00001001#32]) := by decide
/-- V8, draw 4: c = 3. -/
theorem test_draw_fourth : after (execDraw (readyAt 3#32 [0x40000000#32, 0xC0000000#32, 0xC0000000#32, 0xC0000000#32,
      0x40000000#32, 0x40000000#32, 0xC0000000#32, 0x40000000#32])) (fun s => (s.n, s.rsp)) =
    some (4#32, [0x00082000#32, 0x60000000#32, 0x60000000#32, 0xA0000000#32, 0xE0000000#32, 0x60000000#32, 0x20000000#32,
      0x60000000#32, 0xE0000000#32]) := by decide
/-- V10: the last draw that succeeds, and the one after it. -/
theorem test_draw_limit :
    after (execDraw (readyAt 0xFFFFFFFE#32 [0x80000007#32, 0x7FFFFFFF#32])) (fun s => (s.state, s.n, s.rsp)) =
      some (.ready, 0xFFFFFFFF#32, [0x00022000#32, 7#32, 0xFFFFFFFF#32]) ∧
    after (execDraw (readyAt 0xFFFFFFFF#32 [7#32, 0xFFFFFFFF#32])) (fun s => (s.state, s.n, s.x, s.lastErr, s.rsp)) =
      some (.exhausted, 0xFFFFFFFF#32, [7#32, 0xFFFFFFFF#32], 2#8, [0x00002002#32]) := by decide
theorem test_rdx_last_index : after (execRdx 2#16 (readyAt 1#32 (List.replicate 3 0x80000000#32))) State.rsp =
    some [0x00013000#32, 0x80000000#32] := by decide
theorem test_rdx_out_of_range : after (execRdx 3#16 (readyAt 1#32 (List.replicate 3 0x80000000#32)))
    (fun s => (s.rsp, s.lastErr)) = some ([0x00003005#32], 5#8) := by decide
/-- V7: `RDV 2, 3` and `RDV 0, 32` (P). -/
theorem test_rdv_reads : after (execRdv 2#16 3#6 (readyAt 1#32 (List.replicate 3 0x80000000#32))) State.rsp =
      some [0x00014000#32, 0x60000000#32] ∧
    after (execRdv 0#16 32#6 (readyAt 1#32 (List.replicate 3 0x80000000#32))) State.rsp =
      some [0x00014000#32, 7#32] := by decide
/-- V7: column 0, row DIM; P3's column 33; V11: NO_ENGINE before INDEX_RANGE. -/
theorem test_rdv_out_of_range : after (execRdv 0#16 0#6 (readyAt 1#32 [3#32, 4#32, 5#32])) State.rsp = some [0x00004005#32] ∧
    after (execRdv 3#16 1#6 (readyAt 1#32 [3#32, 4#32, 5#32])) State.rsp = some [0x00004005#32] ∧
    after (execRdv 1#16 33#6 (readyAt 1#32 [3#32, 4#32, 5#32])) State.rsp = some [0x00004005#32] ∧
    after (execRdv 5#16 0#6 empty) State.rsp = some [0x00004003#32] := by decide
theorem test_rdn : after (execRdn (readyAt 1#32 [3#32, 4#32, 5#32])) State.rsp = some [0x00015000#32, 1#32] := by decide
theorem test_rdn_empty : after (execRdn empty) (fun s => (s.rsp, s.lastErr)) = some ([0x00005003#32], 3#8) := by decide
theorem test_stat : after (execStat (readyAt 1#32 [3#32, 4#32, 5#32])) State.rsp =
    some [0x00026000#32, 0x00030001#32, 0x01200008#32] := by decide
/-- R124: after a failed CFG 0 from reset. -/
theorem test_stat_after_error : after (execStat { empty with lastErr := 0x01#8 }) State.rsp =
    some [0x00026000#32, 0x00000100#32, 0x01200008#32] := by decide
theorem test_rel_exhausted : after (execRel exhausted2) (fun s => (s.state, s.dim, s.n, s.lastErr, s.rsp)) =
    some (.empty, 0#16, 0#32, 0#8, [0x00007000#32]) := by decide
/-- P3's `.word 0x9000ABCD`, and V10's 0x20000001. -/
theorem test_illegal : after (exec (decode 0x9000ABCD#32) exhausted2) (fun s => (s.rsp, s.lastErr, s.state)) =
      some ([0x00009004#32], 4#8, .exhausted) ∧
    after (exec (decode 0x20000001#32) empty) (fun s => (s.rsp, s.lastErr)) = some ([0x00002004#32], 4#8) := by decide
/-- V9, N = 0x80000001: X[1]. -/
theorem test_closed_form_v9 : closedPoint ((readyAt 0#32 [0#32, 0#32]).readV 1) 0x80000001#32 = 0xD5555555#32 := by
  decide

/-! ## Ports and reset (30_encoding.md R76, 70_reset_and_hazards.md R160) -/

/-- A response of two words, half taken, and the host's next action. -/
def pending (input : HostInput) : State :=
  { readyAt 1#32 [3#32, 4#32] with rsp := [8#32, 9#32], program := [0x50000000#32], inputs := [input] }

theorem test_offer_refused_while_pending : after (step (pending .offer)) (fun s => (s.k, s.rsp)) =
    some (0, [8#32, 9#32]) := by decide
theorem test_take_one : after (step (pending .take)) (fun s => (s.taken, s.rsp)) = some ([8#32], [9#32]) := by decide
theorem test_reset_discards : after (step (pending .reset)) (fun s => (s.state, s.n, s.rsp, s.k)) =
    some (.empty, 0#32, [], 0) := by decide
theorem test_reset_in_flight : after (step (pending .resetInFlight)) (fun s => (s.state, s.rsp, s.taken, s.k)) =
    some (.empty, [], [8#32, 9#32], 1) := by decide
theorem test_never_drain_stalls : step (pending .neverDrain) = .fault .portStalled := rfl
theorem test_fetch_word : after (step (State.reset.withFetchWord 32 0x50000000)) State.rsp = some [0x00005003#32] := by
  decide

/-! ## Fixed point to binary64 (V12) -/

theorem test_binary64 : [0#32, 1#32, 0x60000000#32, 0xA0000000#32, 0xFFFFFFFF#32].map toBinary64 =
    [0#64, 0x3DF0000000000000#64, 0x3FD8000000000000#64, 0x3FE4000000000000#64, 0x3FEFFFFFFFE00000#64] := by decide

/-! ## Witnesses: for each statement with hypotheses, states and operands that meet them -/

theorem witness_DecodeOfEncodeIsIdentity : (Instr.rdv 65535#16 63#6).wellFormed = true ∧
    (Instr.illegal 0xF#4 0xFFFFFFF#28).wellFormed = true := by decide

theorem witness_OpcodeTableSelectsDecodedRow : decode 0x4FC0FFFF#32 = .rdv 65535#16 63#6 ∧
    decode 0x80000000#32 = .illegal 8#4 0#28 ∧ decode 0x70000001#32 = .illegal 7#4 1#28 := by decide

theorem witness_ByteBridgeIsLittleEndian : (bridgeBytes 0x1000ABCD#32)[3]? = some 0x10#8 ∧ 3 < 4 ∧
    ([1#8, 2#8, 3#8] : List Byte).length < 4 := by decide

theorem witness_AssemblerEncodesOrRefuses : 65535 < 65536 ∧ 63 < 64 ∧ 2 ^ 32 - 1 < 2 ^ 32 ∧ 65536 ≤ 65536 ∧ 64 ≤ 64 ∧
    (assemble (.rdv 65535 63)).toOption = some 0x4FC0FFFF#32 := by decide

/-- The entry with the widest fields that is well formed: S = 32. -/
def entry32 : DntEntry := ⟨32, 2 ^ 31 - 1, (List.range' 1 32).map (fun i => 2 ^ i - 1)⟩

/-- The smallest configuration, and one whose entry has degree 32. -/
theorem witness_ConfigurationAdmittedExactly : (∃ c, Config.ofParams ⟨1, [], 0#32⟩ = .ok c) ∧
    (∃ c, Config.ofParams ⟨2, [entry32], 0#32⟩ = .ok c) := ⟨⟨⟨_, by decide⟩, rfl⟩, ⟨⟨_, by decide⟩, rfl⟩⟩

theorem witness_ConfigurationAdmittedExactly_conditions : 1 ≤ 2 ∧ 2 ≤ 65535 ∧ ∀ j, 1 ≤ j → j < 2 →
    ∃ e, [entry32][j - 1]? = some e ∧ 1 ≤ e.s ∧ e.s ≤ 32 ∧ e.a < 2 ^ (e.s - 1) ∧ e.m.length = e.s ∧
      ∀ i, 1 ≤ i → i ≤ e.s → ∃ m, e.m[i - 1]? = some m ∧ 1 ≤ m ∧ m < 2 ^ i := by
  refine ⟨by decide, by decide, fun j h1 h2 => ?_⟩
  obtain rfl : j = 1 := by omega
  refine ⟨entry32, rfl, by decide, by decide, by decide, by decide, fun i hi1 hi2 => ?_⟩
  have h (k : Fin 32) : entry32.m[(k : Nat)]? = some (2 ^ ((k : Nat) + 1) - 1) := by
    revert k; decide
  have hp := Nat.one_lt_two_pow (n := i) (by omega)
  have hi : i - 1 < 32 := by change i ≤ 32 at hi2; omega
  exact ⟨2 ^ i - 1, by have e := h ⟨i - 1, hi⟩; rwa [show i - 1 + 1 = i by omega] at e, by omega, by omega⟩

/-- A step that executes a command. -/
theorem step_rdn : ∃ t, step (hosted exhausted2 0x50000000#32 []) = .next t ∧ t.k = 1 := ⟨_, rfl, rfl⟩

theorem witness_ConfigurationIsConstant : ∃ t, step (hosted exhausted2 0x50000000#32 []) = .next t :=
  step_rdn.imp (fun _ h => h.1)

theorem witness_LastErrorIsSticky : ∃ s t, step s = .next t ∧ t.lastErr = 0x00#8 ∧ s.lastErr ≠ 0x00#8 :=
  ⟨{ empty with lastErr := 0x05#8, inputs := [.reset] }, _, rfl, rfl, by decide⟩

theorem witness_ReservedOpcodeIsIllegal : 8 ≤ (fieldOp 0x80000000#32).toNat ∧ 8 ≤ (fieldOp 0xFFFFFFFF#32).toNat := by
  decide

/-- Z, I and J, each alone. -/
theorem witness_UnusedFieldsMustBeZero :
    ((fieldOp 0x40200000#32).toNat < 8 ∧ fieldZ 0x40200000#32 ≠ 0#6) ∧
    (fieldOp 0x30400000#32 ≠ 0x4#4 ∧ fieldI 0x30400000#32 ≠ 0#6) ∧
    (fieldOp 0x70000001#32 ≠ 0x1#4 ∧ fieldOp 0x70000001#32 ≠ 0x3#4 ∧ fieldOp 0x70000001#32 ≠ 0x4#4 ∧
      fieldJ 0x70000001#32 ≠ 0#16) := by decide

theorem witness_StepRunsDecodedCommand :
    (hosted exhausted2 0x50000000#32 []).program[(hosted exhausted2 0x50000000#32 []).k]? = some 0x50000000#32 ∧
    (hosted exhausted2 0x50000000#32 [.run, .wait]).inputs = .run :: [.wait] := by decide

theorem witness_CommandMovesIndexByOne : empty.inputs = [] ∧ empty.program.length ≤ empty.k ∧
    ∃ t, step (hosted exhausted2 0x50000000#32 []) = .next t ∧ t.k = 1 := ⟨rfl, by decide, step_rdn⟩

theorem witness_StepStopsOnlyAtStalledPort : (pending .neverDrain).inputs.head? = some .neverDrain ∧
    (pending .neverDrain).rsp ≠ [] := by decide

theorem witness_CommandWaitsForDrainedResponse :
    ((pending .offer).inputs = [.offer] ∧ (pending .offer).rsp ≠ []) ∧
    (hosted empty 0x50000000#32 [.offer]).rsp = [] ∧
    (hosted empty 0x50000000#32 [.offer]).program[0]? = some 0x50000000#32 := by decide

/-- A quiet step, and a step with a command. -/
theorem witness_ResponseStreamOnlyGrows : (∃ t, step (pending .take) = .next t ∧ t.k = (pending .take).k) ∧
    (pending .take).inputs.head? ≠ some .reset ∧ (pending .take).inputs.head? ≠ some .resetInFlight ∧
    ∃ t, step (pending .run) = .next t ∧ t.k = (pending .run).k + 1 := ⟨⟨_, rfl, rfl⟩, by decide, by decide, ⟨_, rfl, rfl⟩⟩

/-- The last pending word, and one before it. -/
theorem witness_HostTakesWordsInOrder : (pending .take).rsp = 8#32 :: [9#32] ∧ (pending .take).inputs = [.take] ∧
    { pending .take with rsp := [9#32] }.rsp = 9#32 :: [] := by decide

theorem witness_OnlyCommandsAndResetChangeState : ∃ t, step (pending .wait) = .next t ∧ t.k = (pending .wait).k ∧
    (pending .wait).inputs.head? ≠ some .reset ∧ (pending .wait).inputs.head? ≠ some .resetInFlight :=
  ⟨_, rfl, rfl, by decide, by decide⟩

theorem witness_HardwareResetAbandonsAndClears : (pending .reset).inputs = [.reset] ∧
    (pending .resetInFlight).inputs = [.resetInFlight] ∧ (pending .resetInFlight).program[0]? = some 0x50000000#32 := by
  decide

theorem witness_BuilderRowZero : 1 ≤ 1 ∧ 1 ≤ 31 ∧ (rowZero (tcfg 7#32)).length = 32 := by decide

/-- Rows 1 and 7 of TCFG, the first and last; seeds 1 and S. -/
theorem witness_BuilderSeedsLoseNoBits : (tcfg 7#32).maxDim = 8 ∧ romEntry (tcfg 7#32) 1 = some ⟨1, 0, [1]⟩ ∧
    romEntry (tcfg 7#32) 7 = some ⟨5, 2, [1, 1, 5, 5, 17]⟩ := by decide

/-- Columns S + 1 and 32. -/
theorem witness_BuilderRecurrence : (tcfg 7#32).maxDim = 8 ∧ romEntry (tcfg 7#32) 7 = some ⟨5, 2, [1, 1, 5, 5, 17]⟩ ∧
    5 < 6 ∧ 6 ≤ 32 ∧ 5 < 32 := by decide

theorem witness_BuilderRowsIndependentOfDimension : romEntry (tcfg 7#32) 1 = romEntry (tcfg 8#32) 1 ∧
    romEntry (tcfg 7#32) 0 = romEntry (tcfg 7#32) 0 ∧ (tcfg 7#32).row0Col32 = (tcfg 7#32).row0Col32 := by decide

theorem witness_CfgConstructsEngine : ((1#16 : BitVec 16) ≠ 0#16 ∧ (1#16).toNat ≤ empty.cfg.maxDim) ∧
    ((8#16 : BitVec 16) ≠ 0#16 ∧ (8#16).toNat ≤ exhausted2.cfg.maxDim) ∧
    (fieldOp 0x10400001#32 = 0x1#4 ∧ fieldI 0x10400001#32 ≠ 0#6) ∧
    (fieldOp 0x10010000#32 = 0x1#4 ∧ fieldZ 0x10010000#32 ≠ 0#6) := by decide

theorem witness_CfgRejectsOutOfRange : empty.cfg.maxDim < (9#16).toNat ∧ empty.cfg.maxDim < (65535#16).toNat := by decide

theorem empty_lifecycle : Lifecycle empty := by constructor <;> decide

theorem witness_RelReleasesEngine : Lifecycle empty ∧ empty.state = .empty ∧
    fieldOp 0x70000001#32 = 0x7#4 ∧ fieldRest 0x70000001#32 ≠ 0#28 := ⟨empty_lifecycle, by decide⟩

theorem witness_RzbIsLowestZeroBit : 0xFFFFFFFE#32 ≠ 0xFFFFFFFF#32 ∧ 0x7FFFFFFF#32 ≠ 0xFFFFFFFF#32 ∧
    30 < rzb 0x7FFFFFFF#32 - 1 := by decide

theorem witness_DrawAdvancesPoint : (readyAt 0xFFFFFFFE#32 [3#32, 4#32]).state = .ready ∧
    (readyAt 0xFFFFFFFE#32 [3#32, 4#32]).n ≠ 0xFFFFFFFF#32 ∧ 1 < (readyAt 0xFFFFFFFE#32 [3#32, 4#32]).dim.toNat ∧
    (readyAt 0xFFFFFFFE#32 [3#32, 4#32]).hist[1]? = some [] ∧
    fieldOp 0x20000001#32 = 0x2#4 ∧ fieldRest 0x20000001#32 ≠ 0#28 := by decide

/-- The state after CFG d from reset. -/
def constructed (c : Config) (d : BitVec 16) : State := ((State.resetWith c).construct d).respond 0x1#4 []

theorem constructed_just {c : Config} {d : BitVec 16} (h0 : d ≠ 0#16) (hm : d.toNat ≤ c.maxDim) :
    JustConstructed c d (constructed c d) := ⟨h0, hm, State.resetWith c, rfl, exec_cfg_constructs h0 hm⟩

/-- The state after CFG d and one DRAW. -/
def drawnOnce (c : Config) (d : BitVec 16) : State :=
  (constructed c d).advance.respond 0x2#4 (constructed c d).newPoint

theorem drawnOnce_draws (c : Config) (d : BitVec 16) : Draws (constructed c d) 1 (drawnOnce c d) :=
  Draws.none.step rfl (show (0#32 : Word) ≠ 0xFFFFFFFF#32 by decide)

/-- After CFG 2 and no draw, and after one draw. -/
theorem two_draws_run : JustConstructed (tcfg 7#32) 2#16 (constructed (tcfg 7#32) 2#16) ∧
    Draws (constructed (tcfg 7#32) 2#16) 0 (constructed (tcfg 7#32) 2#16) ∧
    Draws (constructed (tcfg 7#32) 2#16) 1 (drawnOnce (tcfg 7#32) 2#16) :=
  ⟨constructed_just (by decide) (by decide), .none, drawnOnce_draws _ _⟩

theorem witness_DrawExhaustsExactlyAtLimit : (readyAt 0xFFFFFFFF#32 [3#32, 4#32]).state = .ready ∧
    (readyAt 0xFFFFFFFF#32 [3#32, 4#32]).n = 0xFFFFFFFF#32 ∧
    ∃ s t, JustConstructed (tcfg 7#32) 2#16 s ∧ Draws s 1 t :=
  ⟨rfl, by decide, _, _, two_draws_run.1, two_draws_run.2.2⟩

/-- REL, CFG 2 and reset each end EXHAUSTED. -/
theorem witness_DrawFailsWithoutUsableEngine : empty.state = .empty ∧ exhausted2.state = .exhausted ∧
    (∃ t, step (hosted exhausted2 0x70000000#32 []) = .next t ∧ t.state ≠ .exhausted) ∧
    (∃ t, step (hosted exhausted2 0x10000002#32 []) = .next t ∧ t.state ≠ .exhausted) ∧
    (∃ t, step (hosted exhausted2 0x70000000#32 [.reset]) = .next t ∧ t.state ≠ .exhausted) :=
  ⟨rfl, rfl, ⟨_, rfl, by decide⟩, ⟨_, rfl, by decide⟩, ⟨_, rfl, by decide⟩⟩

theorem witness_GrayStepFlipsSelectedBit : 0#32 ≠ 0xFFFFFFFF#32 ∧ 0xFFFFFFFE#32 ≠ 0xFFFFFFFF#32 := by decide

theorem witness_PointHasClosedForm : ∃ s t, JustConstructed (tcfg 7#32) 2#16 s ∧ Draws s 1 t ∧ 1 < (2#16).toNat :=
  ⟨_, _, two_draws_run.1, two_draws_run.2.2, by decide⟩

/-- Two configurations that differ in ROW0_COL32 alone. -/
theorem witness_PointsIndependentOfRow0Col32 : 0x7FFFFFFF#32 ≠ 0xFFFFFFFF#32 ∧
    (tcfg 8#32).maxDim = (tcfg 7#32).maxDim ∧ (tcfg 8#32).dnt = (tcfg 7#32).dnt ∧
    ∃ s s' t t', JustConstructed (tcfg 7#32) 2#16 s ∧ JustConstructed (tcfg 8#32) 2#16 s' ∧ Draws s 1 t ∧ Draws s' 1 t' :=
  ⟨by decide, rfl, rfl, _, _, _, _, two_draws_run.1, constructed_just (by decide) (by decide), two_draws_run.2.2,
    drawnOnce_draws _ _⟩

theorem witness_PointsArePrefixConsistent : (2#16).toNat ≤ (8#16).toNat ∧ ∃ s s' t t',
    JustConstructed (tcfg 7#32) 2#16 s ∧ JustConstructed (tcfg 7#32) 8#16 s' ∧ Draws s 1 t ∧ Draws s' 1 t' :=
  ⟨by decide, _, _, _, _, two_draws_run.1, constructed_just (by decide) (by decide), two_draws_run.2.2,
    drawnOnce_draws _ _⟩

theorem witness_DimensionZeroIsBitReversedGray : ∃ s t, JustConstructed (tcfg 7#32) 2#16 s ∧ Draws s 1 t ∧ 1 < 2 ^ 31 :=
  ⟨_, _, two_draws_run.1, two_draws_run.2.2, by decide⟩

/-- The smallest and the largest word that is not 0. -/
theorem witness_Binary64ConversionIsExact : (2 ^ 0 ≤ (1#32).toNat ∧ (1#32).toNat < 2 ^ (0 + 1)) ∧
    2 ^ 31 ≤ (0xFFFFFFFF#32).toNat ∧ (0xFFFFFFFF#32).toNat < 2 ^ (31 + 1) := by decide

theorem witness_NopRespondsAndChangesNothing : fieldOp 0x00000001#32 = 0x0#4 ∧ fieldRest 0x00000001#32 ≠ 0#28 := by
  decide

/-- READY and EXHAUSTED at index DIM - 1, at index DIM, and EMPTY. -/
theorem witness_RdxReadsPoint : (exhausted2.state ≠ .empty ∧ (1#16).toNat < exhausted2.dim.toNat) ∧
    ((readyAt 0#32 [0#32, 0#32]).state ≠ .empty ∧ (1#16).toNat < (readyAt 0#32 [0#32, 0#32]).dim.toNat) ∧
    exhausted2.dim.toNat ≤ (2#16).toNat ∧ empty.state = .empty ∧
    (fieldOp 0x30010000#32 = 0x3#4 ∧ fieldZ 0x30010000#32 ≠ 0#6) ∧
    (fieldOp 0x30400000#32 = 0x3#4 ∧ fieldI 0x30400000#32 ≠ 0#6) := by decide

theorem witness_RdxReadsPoint_history : (∃ s, JustConstructed (tcfg 7#32) 2#16 s) ∧
    ∃ s t, s.state = .ready ∧ s.n ≠ 0xFFFFFFFF#32 ∧ exec .draw s = .next t ∧ 1 < t.dim.toNat :=
  ⟨⟨_, two_draws_run.1⟩, readyAt 0#32 [0#32, 0#32], _, rfl, by decide, rfl, by decide⟩

theorem constructed_storage (c : Config) (d : BitVec 16) (hm : d.toNat ≤ c.maxDim) : Storage (constructed c d) :=
  ⟨Memory.wf_construct (State.resetWith c) d hm, rfl⟩

theorem constructed_lifecycle : Lifecycle (constructed (tcfg 7#32) 2#16) := by constructor <;> decide

theorem witness_RdvReadsMatrix : (exhausted2.state ≠ .empty ∧ (1#16).toNat < exhausted2.dim.toNat ∧ 1 ≤ (1#6).toNat ∧
      (32#6).toNat ≤ 32) ∧ empty.state = .empty ∧
    (exhausted2.dim.toNat ≤ (2#16).toNat ∧ (0#6).toNat = 0 ∧ 32 < (33#6).toNat) ∧
    fieldOp 0x40010000#32 = 0x4#4 ∧ fieldZ 0x40010000#32 ≠ 0#6 := by decide

theorem witness_RdvReadsMatrix_storage : Storage (constructed (tcfg 7#32) 2#16) ∧
    0 < (constructed (tcfg 7#32) 2#16).dim.toNat := ⟨constructed_storage _ _ (by decide), by decide⟩

theorem witness_RdvReturnsBuilderWord : Lifecycle (constructed (tcfg 7#32) 2#16) ∧
    Storage (constructed (tcfg 7#32) 2#16) ∧ (constructed (tcfg 7#32) 2#16).state ≠ .empty ∧
    (1#16).toNat < (constructed (tcfg 7#32) 2#16).dim.toNat ∧ 1 ≤ (32#6).toNat ∧ (32#6).toNat ≤ 32 :=
  ⟨constructed_lifecycle, constructed_storage _ _ (by decide), by decide⟩

theorem exhausted2_lifecycle : Lifecycle exhausted2 := by constructor <;> decide

theorem witness_RdnReadsCounter : exhausted2.state ≠ .empty ∧ empty.state = .empty ∧
    (fieldOp 0x50000001#32 = 0x5#4 ∧ fieldRest 0x50000001#32 ≠ 0#28) ∧
    (∃ s t, JustConstructed (tcfg 7#32) 2#16 s ∧ Draws s 1 t) ∧ Lifecycle exhausted2 ∧ exhausted2.state = .exhausted :=
  ⟨by decide, rfl, by decide, ⟨_, _, two_draws_run.1, two_draws_run.2.2⟩, exhausted2_lifecycle, rfl⟩

theorem witness_StatReportsStatusAndCaps : fieldOp 0x60000001#32 = 0x6#4 ∧ fieldRest 0x60000001#32 ≠ 0#28 := by decide

theorem witness_ObserversAreRepeatable : ∃ (i : Instr) (s : State), i = .rdv 1#16 32#6 ∧ s.state ≠ .empty :=
  ⟨_, exhausted2, rfl, by decide⟩

/-- A DRAW writes N and X, a CFG every register and store, a REL STATE. -/
theorem witness_EngineWrittenOnlyByItsCommands :
    (∃ t, exec .draw (readyAt 0#32 [0#32, 0#32]) = .next t ∧ t.n ≠ 0#32 ∧ t.readX 0 ≠ 0#32) ∧
    (∃ t, exec (.cfg 1#16) exhausted2 = .next t ∧ t.state ≠ exhausted2.state ∧ t.dim ≠ exhausted2.dim) ∧
    (∃ t, exec (.cfg 1#16) { readyAt 0#32 [0#32] with v := [[5#32]] } = .next t ∧ t.readV 0 1 ≠ 5#32) :=
  ⟨⟨_, rfl, by decide, by decide⟩, ⟨_, rfl, by decide, by decide⟩, ⟨_, rfl, by decide⟩⟩

/-- Two states that differ in what is unspecified, and in the host's side. -/
theorem witness_UnspecifiedCellsAreNeverShown : SameReadable exhausted2 { exhausted2 with epoch := 9, k := 3 } ∧
    ∃ t t', exec .draw exhausted2 = .next t ∧ exec .draw { exhausted2 with epoch := 9, k := 3 } = .next t' := by
  refine ⟨⟨rfl, rfl, rfl, rfl, rfl, rfl, ?_, ?_⟩, _, _, rfl, rfl⟩
  · intro j hj i h1 h32
    have e1 := readV_of_matrix (s := exhausted2) (d := 2) rfl (by decide) hj h1 h32
    have e2 := readV_of_matrix (s := { exhausted2 with epoch := 9, k := 3 }) (d := 2) rfl (by decide) hj h1 h32
    exact (Option.some.inj (e1.symm.trans e2)).symm
  · intro j hj
    have h (k : Fin 2) : ({ exhausted2 with epoch := 9, k := 3 } : State).readX k = exhausted2.readX k := by
      revert k; decide
    exact h ⟨j, hj⟩

theorem witness_StepKeepsLifecycle : Lifecycle (hosted exhausted2 0x50000000#32 []) ∧
    ∃ t, step (hosted exhausted2 0x50000000#32 []) = .next t := ⟨by constructor <;> decide, step_rdn.imp (fun _ h => h.1)⟩

/-- The state after CFG 2, its host about to offer a DRAW. -/
def beforeDraw : State := hosted (constructed (tcfg 7#32) 2#16) 0x20000000#32 []

theorem step_draw : ∃ t, step beforeDraw = .next t ∧ t.n = 1#32 := ⟨_, rfl, by decide⟩

theorem witness_StepKeepsStorage : Storage beforeDraw ∧ ∃ t, step beforeDraw = .next t :=
  ⟨⟨(constructed_storage (tcfg 7#32) 2#16 (by decide)).wf, rfl⟩, step_draw.imp (fun _ h => h.1)⟩

theorem witness_StepKeepsHistory : History beforeDraw ∧ ∃ t, step beforeDraw = .next t := by
  refine ⟨fun j hj => ⟨[0#32], ?_⟩, step_draw.imp (fun _ h => h.1)⟩
  have h (k : Fin 2) : beforeDraw.hist[(k : Nat)]? = some [0#32] ∧ ([0#32] : List Word).length = beforeDraw.n.toNat + 1 ∧
      ([0#32] : List Word).getLast? = some (beforeDraw.readX k) := by
    revert k; decide
  exact h ⟨j, hj⟩

theorem witness_StepKeepsClosedForm : ClosedForm beforeDraw ∧ ∃ t, step beforeDraw = .next t := by
  refine ⟨fun j hj => ?_, step_draw.imp (fun _ h => h.1)⟩
  have h (k : Fin 2) : beforeDraw.readX k = 0#32 := by
    revert k; decide
  exact (h ⟨j, hj⟩).trans (closedPoint_zero _).symm

end Sys2Proof.Tests
end

section
/-! The column selector `rzb` (00_scope.md R9): its range and the bits it speaks of. -/

namespace Sys2Proof.Machine

theorem one_le_rzb (w : Word) : 1 ≤ rzb w := Nat.le_add_right 1 _

theorem rzb_sub_one (w : Word) : rzb w - 1 = trailingOnes 32 w := Nat.add_sub_cancel_left 1 _

/-- The bits below the one `rzb` names are ones, for 0xFFFFFFFF too. -/
theorem getLsbD_of_lt_rzb {w : Word} {b : Nat} (hb : b < rzb w - 1) : w.getLsbD b = true :=
  (trailingOnes_spec 32 w).2.1 b (rzb_sub_one w ▸ hb)

theorem getLsbD_rzb_of_le {w : Word} (h : rzb w ≤ 32) : w.getLsbD (rzb w - 1) = false := by
  have hlt : trailingOnes 32 w < 32 := by
    have := rzb_sub_one w
    have := one_le_rzb w
    omega
  rw [rzb_sub_one]
  exact (trailingOnes_spec 32 w).2.2 hlt

theorem getLsbD_ones {b : Nat} (hb : b < 32) : (0xFFFFFFFF#32).getLsbD b = true := by
  rw [show 0xFFFFFFFF#32 = BitVec.allOnes 32 from rfl, BitVec.getLsbD_allOnes, decide_eq_true hb]

/-- Only the word without a zero bit makes `rzb` leave [1, 32]. -/
theorem rzb_le_iff (w : Word) : rzb w ≤ 32 ↔ w ≠ 0xFFFFFFFF#32 := by
  constructor
  · rintro h rfl
    have hzero := getLsbD_rzb_of_le h
    have hone := getLsbD_ones (b := rzb 0xFFFFFFFF#32 - 1) (by omega)
    exact Bool.false_ne_true (hzero.symm.trans hone)
  · intro hw
    by_contra h
    refine hw (BitVec.eq_of_getLsbD_eq fun b hb => ?_)
    exact (getLsbD_of_lt_rzb (by omega)).trans (getLsbD_ones hb).symm

theorem rzb_le_33 (w : Word) : rzb w ≤ 33 := by
  have := (trailingOnes_spec 32 w).1
  have := rzb_sub_one w
  omega

theorem rzb_allOnes : rzb 0xFFFFFFFF#32 = 33 := by
  have hgt : ¬ rzb 0xFFFFFFFF#32 ≤ 32 := fun h => (rzb_le_iff _).mp h rfl
  have := rzb_le_33 0xFFFFFFFF#32
  omega

/-- Settles O33: `trailingOnes` stops at a zero bit unless all 32 bits are ones. -/
theorem rzbIsLowestZeroBit : Obligations.RzbIsLowestZeroBit := by
  refine ⟨fun w hw => ?_, rzb_allOnes⟩
  have hle : rzb w ≤ 32 := (rzb_le_iff w).mpr hw
  exact ⟨one_le_rzb w, hle, getLsbD_rzb_of_le hle, fun b hb => getLsbD_of_lt_rzb hb⟩

end Sys2Proof.Machine
end

section
/-! The register LAST_ERR (10_state.md R26): what a command, and a step, can do to it. -/

namespace Sys2Proof.Machine

/-- No meaning answers a fault or a refusal (60_exceptions.md R140). -/
theorem exec_completes (i : Instr) (s : State) : ∃ t, exec i s = .next t := by
  cases i <;> exact ⟨_, rfl⟩

/-- One status code fixes both the response word and LAST_ERR. -/
theorem exec_response {i : Instr} {s t : State} (h : exec i s = .next t) :
    ∃ code data, t.rsp = s.rsp ++ respWord data.length i.opcode code :: data ∧
      t.lastErr = if code = .ok then s.lastErr else code.toByte := by
  obtain ⟨code, hc, rfl⟩ | ⟨rfl, -, -, rfl⟩ | ⟨data, -, rfl⟩ | ⟨d, rfl, -, -, rfl⟩ | ⟨rfl, -, -, rfl⟩ | ⟨rfl, rfl⟩ :=
    exec_cases h
  · exact ⟨code, [], by simp, by simp [hc]⟩
  · exact ⟨.counterExhausted, [], by simp [Instr.opcode], by simp⟩
  · exact ⟨.ok, data, by simp, by simp⟩
  · exact ⟨.ok, [], by simp [Instr.opcode], by simp⟩
  · exact ⟨.ok, s.newPoint, by simp [Instr.opcode], by simp⟩
  · exact ⟨.ok, [], by simp [Instr.opcode], by simp⟩

theorem exec_lastErr_ne_zero {i : Instr} {s t : State} (h : exec i s = .next t) (hs : s.lastErr ≠ 0x00#8) :
    t.lastErr ≠ 0x00#8 := by
  obtain ⟨code, _, -, herr⟩ := exec_response h
  rw [herr]
  split
  · exact hs
  · next hc => exact fun hzero => hc (code.toByte_eq_ok.mp hzero)

theorem step_lastErr_ne_zero {s t : State} (h : step s = .next t) (hs : s.lastErr ≠ 0x00#8)
    (hr : s.inputs.head? ≠ some .reset) (hf : s.inputs.head? ≠ some .resetInFlight) : t.lastErr ≠ 0x00#8 := by
  obtain ⟨s₀, h0, hc⟩ := step_cases h
  have hs₀ : s₀.lastErr ≠ 0x00#8 := by
    obtain rfl | rfl := h0
    · exact hs
    · simpa using hs
  obtain rfl | rfl | ⟨hreset, -⟩ | ⟨hflight, -⟩ | ⟨w, -, hexec, -⟩ := hc
  · exact hs₀
  · simpa using hs₀
  · exact absurd hreset hr
  · exact absurd hflight hf
  · exact exec_lastErr_ne_zero hexec (by simpa using hs₀)

theorem statusWord_lastErr (s : State) : (statusWord s).extractLsb' 8 8 = s.lastErr := by
  unfold statusWord
  ext k hk
  simp [show 8 + k < 32 by omega, show 8 + k < 16 by omega, hk, s.state.bits.getLsbD_of_ge (8 + k) (by omega)]

theorem respWord_stat : respWord 2 0x6#4 .ok = 0x00026000#32 := by decide

theorem exec_stat (s : State) :
    exec .stat s = .next { s with rsp := s.rsp ++ [0x00026000#32, statusWord s, capsWord s.cfg] } := by
  rw [← respWord_stat]
  rfl

/-- Settles O13: a command's one status code goes into its response and, unless it is OK, into LAST_ERR; a
code that is not OK is not 0x00, so only a reset step can clear the register. -/
theorem lastErrorIsSticky : Obligations.LastErrorIsSticky := by
  refine ⟨rfl, fun i s => ?_, fun s t hstep hzero hs => ?_, fun s => ?_⟩
  · obtain ⟨t, ht⟩ := exec_completes i s
    obtain ⟨code, data, hrsp, herr⟩ := exec_response ht
    exact ⟨t, _, data, ht, hrsp, by simp only [respCode_respWord, StatusCode.toByte_eq_ok, herr]⟩
  · by_contra hno
    obtain ⟨hr, hf⟩ := not_or.mp hno
    exact step_lastErr_ne_zero hstep hs hr hf hzero
  · exact ⟨_, statusWord s, capsWord s.cfg, exec_stat s, rfl, statusWord_lastErr s, rfl⟩

end Sys2Proof.Machine
end

section
/-! Reset (10_state.md R35): the values it leaves and what the first reads answer. -/

namespace Sys2Proof.Machine

/-- No word is pending at reset, so a failing command's response stands alone. -/
theorem reset_raise (op : BitVec 4) (code : StatusCode) :
    State.reset.raise op code = { State.reset with lastErr := code.toByte, rsp := [respWord 0 op code] } := rfl

theorem statusWord_reset : statusWord State.reset = 0x00000000#32 := rfl

/-- Settles O24: the registers are literals of `State.resetWith`, and EMPTY makes RDX and RDV fail with
NO_ENGINE. -/
theorem resetLeavesSpecifiedValues : Obligations.ResetLeavesSpecifiedValues := by
  refine ⟨rfl, rfl, rfl, rfl, rfl, rfl, statusWord_reset, ⟨capsWord State.reset.cfg, ?_, rfl⟩, fun j => ?_, fun j i => ?_⟩
  · rw [exec_stat, statusWord_reset]
    rfl
  · rw [exec_rdx_empty j rfl, reset_raise]
    rfl
  · rw [exec_rdv_empty j i rfl, reset_raise]
    rfl

end Sys2Proof.Machine
end

section
/-! Illegal words (30_encoding.md R64, R65): they decode to ILLEGAL and are rejected in every state. -/

namespace Sys2Proof

/-- Such a word meets the condition of no command's line of R69. -/
theorem decode_eq_illegal {w : Word}
    (h : 8 ≤ (fieldOp w).toNat ∨ fieldZ w ≠ 0#6 ∨ (fieldOp w ≠ 0x4#4 ∧ fieldI w ≠ 0#6) ∨
      (fieldOp w ≠ 0x1#4 ∧ fieldOp w ≠ 0x3#4 ∧ fieldOp w ≠ 0x4#4 ∧ fieldJ w ≠ 0#16)) :
    decode w = .illegal (fieldOp w) (fieldRest w) := by
  have noOperand {op : BitVec 4} (hop : op.toNat < 8) : ¬(fieldOp w = op ∧ fieldRest w = 0#28) := by
    rintro ⟨rfl, hrest⟩
    obtain ⟨hi, hz, hj⟩ := (fieldRest_eq_zero_iff w).mp hrest
    have hreserved : 8 ≤ (fieldOp w).toNat := by simpa [hi, hz, hj] using h
    omega
  have operandJ {op : BitVec 4} (hop : op = 0x1#4 ∨ op = 0x3#4) :
      ¬(fieldOp w = op ∧ fieldI w = 0#6 ∧ fieldZ w = 0#6) := by
    rintro ⟨rfl, hi, hz⟩
    obtain hop | hop := hop <;> simp [hop, hi, hz] at h
  have operandsJI : ¬(fieldOp w = 0x4#4 ∧ fieldZ w = 0#6) := by
    rintro ⟨hop, hz⟩
    simp [hop, hz] at h
  rw [decode, if_neg (noOperand (by decide)), if_neg (operandJ (.inl rfl)), if_neg (noOperand (by decide)),
    if_neg (operandJ (.inr rfl)), if_neg operandsJI, if_neg (noOperand (by decide)), if_neg (noOperand (by decide)),
    if_neg (noOperand (by decide))]

namespace Machine

theorem exec_illegal (op : BitVec 4) (rest : BitVec 28) (s : State) :
    exec (.illegal op rest) s = .next (s.raise op .illegalCommand) := rfl

theorem respWord_illegalCommand (op : BitVec 4) :
    respWord 0 op .illegalCommand = (op.setWidth 32 <<< 12) ||| 0x00000004#32 := by
  simp [respWord, StatusCode.toByte]

theorem raise_sameOutside (s : State) (op : BitVec 4) (code : StatusCode) : SameOutside s (s.raise op code) :=
  ⟨rfl, rfl, rfl, rfl, rfl⟩

theorem raise_sameEngine (s : State) (op : BitVec 4) (code : StatusCode) : SameEngine s (s.raise op code) :=
  ⟨rfl, rfl, rfl, rfl, rfl, rfl, rfl⟩

theorem rejectedAsIllegal_of_decode {w : Word} {rest : BitVec 28} (h : decode w = .illegal (fieldOp w) rest) :
    RejectedAsIllegal w := by
  intro s
  refine ⟨s.raise (fieldOp w) .illegalCommand, ?_, ⟨?_, rfl, raise_sameOutside _ _ _⟩, raise_sameEngine _ _ _⟩
  · rw [h, exec_illegal]
  · rw [State.raise_rsp, respWord_illegalCommand]

/-- Settles O14: a reserved opcode is no command's, so the word decodes to ILLEGAL. -/
theorem reservedOpcodeIsIllegal : Obligations.ReservedOpcodeIsIllegal :=
  fun _ hop => rejectedAsIllegal_of_decode (decode_eq_illegal (.inl hop))

/-- Settles O15: a 1 outside the fields used breaks the decoding condition of the opcode's command. -/
theorem unusedFieldsMustBeZero : Obligations.UnusedFieldsMustBeZero :=
  fun _ _ hunused => rejectedAsIllegal_of_decode (decode_eq_illegal (.inr hunused))

end Machine

end Sys2Proof
end

section
/-! The shape of a response (30_encoding.md R67, R68): one response word, then the data words it counts. -/

namespace Sys2Proof

/-- ILLEGAL, like every command, keeps the word's bits 31:28. -/
theorem opcode_decode (w : Word) : (decode w).opcode = fieldOp w := by
  unfold decode
  split_ifs with hnop hcfg hdraw hrdx hrdv hrdn hstat hrel
  · exact hnop.1.symm
  · exact hcfg.1.symm
  · exact hdraw.1.symm
  · exact hrdx.1.symm
  · exact hrdv.1.symm
  · exact hrdn.1.symm
  · exact hstat.1.symm
  · exact hrel.1.symm
  · rfl

namespace Machine

/-- The table of R68: the data words of a command that succeeds and leaves `t`. -/
def okLength (i : Instr) (t : State) : Nat :=
  match i with
  | .nop => 0
  | .cfg _ => 0
  | .draw => t.dim.toNat
  | .rdx _ => 1
  | .rdv _ _ => 1
  | .rdn => 1
  | .stat => 2
  | .rel => 0
  | .illegal _ _ => 0

/-- LEN has 16 bits, and so has DIM. -/
theorem okLength_lt (i : Instr) (t : State) : okLength i t < 65536 := by
  cases i
  case draw => exact t.dim.isLt
  all_goals simp [okLength]

/-- From `s` to `t` one whole response became pending: on OK with `len` data words, else with none. -/
def Answers (s t : State) (op : BitVec 4) (len : Nat) : Prop :=
  ∃ code data, t.rsp = s.rsp ++ respWord data.length op code :: data ∧ data.length = if code = .ok then len else 0

theorem answers_raise {s t : State} (h : t.rsp = s.rsp) (op : BitVec 4) {code : StatusCode} (hc : code ≠ .ok)
    (len : Nat) : Answers s (t.raise op code) op len :=
  ⟨code, [], by simp [h], by simp [hc]⟩

theorem answers_respond {s t : State} (h : t.rsp = s.rsp) (op : BitVec 4) (data : List Word) :
    Answers s (t.respond op data) op data.length :=
  ⟨.ok, data, by simp [h], by simp⟩

theorem newPoint_length (s : State) : s.newPoint.length = s.dim.toNat := by simp [State.newPoint]

/-- `exec_cases` leaves open how many words an observer reports. -/
theorem observer_answers {i : Instr} {s t : State} (ho : isObserver i = true) (h : exec i s = .next t) :
    Answers s t i.opcode (okLength i t) := by
  cases i with
  | nop => cases h; exact answers_respond rfl _ []
  | rdx | rdv =>
    cases h
    split
    · exact answers_raise rfl _ (by decide) _
    · split
      · exact answers_respond rfl _ [_]
      · exact answers_raise rfl _ (by decide) _
  | rdn =>
    cases h
    split
    · exact answers_raise rfl _ (by decide) _
    · exact answers_respond rfl _ [_]
  | stat => cases h; exact answers_respond rfl _ [_, _]
  | cfg | draw | rel | illegal => cases ho

theorem exec_answers {i : Instr} {s t : State} (h : exec i s = .next t) : Answers s t i.opcode (okLength i t) := by
  obtain ⟨code, hc, rfl⟩ | ⟨rfl, -, -, rfl⟩ | ⟨-, ho, -⟩ | ⟨d, rfl, -, -, rfl⟩ | ⟨rfl, -, -, rfl⟩ | ⟨rfl, rfl⟩ :=
    exec_cases h
  · exact answers_raise rfl _ hc _
  · exact answers_raise rfl _ (by decide) _
  · exact observer_answers ho h
  · exact answers_respond rfl _ []
  · have h := answers_respond (s := s) (t := s.advance) rfl 0x2#4 s.newPoint
    rwa [newPoint_length] at h
  · exact answers_respond rfl _ []

/-- LEN never overflows its field. -/
theorem exec_responds (i : Instr) (s : State) : ∃ t code data, exec i s = .next t ∧
    t.rsp = s.rsp ++ respWord data.length i.opcode code :: data ∧
    data.length = (if code = .ok then okLength i t else 0) ∧ data.length < 65536 := by
  obtain ⟨t, ht⟩ := exec_completes i s
  obtain ⟨code, data, hrsp, hlen⟩ := exec_answers ht
  refine ⟨t, code, data, ht, hrsp, hlen, ?_⟩
  have hlt := okLength_lt i t
  split at hlen <;> omega

/-- Settles O9: the fields of `respWord` hold what it was put together from, for LEN below 65536. -/
theorem everyWordAnsweredByOneResponse : Obligations.EveryWordAnsweredByOneResponse := by
  intro w s
  obtain ⟨t, code, data, ht, hrsp, -, hlt⟩ := exec_responds (decode w) s
  refine ⟨t, _, data, ht, hrsp, respLen_respWord _ _ _ hlt, ?_, respReserved_respWord _ _ _, ?_⟩
  · rw [respOp_respWord, opcode_decode]
  · rw [respCode_respWord]
    exact code.toByte_le

/-- Settles O10: `okLength` is the table, and a response whose code is not OK has no data. -/
theorem responseLengthPerCommand : Obligations.ResponseLengthPerCommand := by
  intro i s
  obtain ⟨t, code, data, ht, hrsp, hlen, hlt⟩ := exec_responds i s
  refine ⟨t, _, data, ht, hrsp, respLen_respWord _ _ _ hlt, fun hcode => ?_, fun hcode => ?_⟩
  · rw [respCode_respWord, Ne, StatusCode.toByte_eq_ok] at hcode
    exact hlen.trans (if_neg hcode)
  · rw [respCode_respWord, StatusCode.toByte_eq_ok] at hcode
    exact hlen.trans (if_pos hcode)

end Machine

end Sys2Proof
end

section
/-! The builder's columns (40_construct.md R81, R83): row 0's powers of two, and the recurrence of a table row. -/

namespace Sys2Proof.Machine

/-! ## Row 0 -/

theorem rowZero_power (c : Config) {m : Nat} (h1 : 1 ≤ m) (h31 : m ≤ 31) :
    (rowZero c)[m - 1]? = some (1#32 <<< (32 - m)) := by
  have hm : 1 + (m - 1) = m := by omega
  have hlt : m - 1 < 31 := by omega
  simp [rowZero, List.getElem?_append_left, hlt, hm]

theorem rowZero_last (c : Config) : (rowZero c)[31]? = some c.row0Col32 := by
  simp [rowZero]

/-- Settles O26: columns 1 to 31 are one bit each, and 32 - m is below the word's width. -/
theorem builderRowZero : Obligations.BuilderRowZero := by
  intro c
  rw [buildRow_zero]
  exact ⟨rowZero_length c, fun m h1 h31 => ⟨_, rowZero_power c h1 h31, BitVec.toNat_twoPow_of_lt (by omega)⟩,
    rowZero_last c⟩

/-! ## The recurrence of a table row -/

/-- A column after the seeds is `nextColumn` of the columns before it. -/
theorem tableRow_split (e : DntEntry) {p : Nat} (hs : e.s ≤ p) (hp : p < 32) :
    ∃ earlier later, earlier.length = p ∧ tableRow e = earlier ++ nextColumn e earlier.reverse :: later := by
  have hcount : 32 - e.s = (p - e.s) + (31 - p + 1) := by omega
  have hlen : (extendRow e (p - e.s) (seedColumns e).reverse).length = p := by
    rw [extendRow_length, List.length_reverse, seedColumns_length]
    omega
  rw [tableRow, hcount, extendRow_add, extendRow]
  generalize extendRow e (p - e.s) (seedColumns e).reverse = newestFirst at hlen
  obtain ⟨added, -, hadded⟩ := extendRow_suffix e (31 - p) (nextColumn e newestFirst :: newestFirst)
  exact ⟨newestFirst.reverse, added.reverse, by simpa using hlen, by simp [hadded]⟩

/-- Newest first, the column k before the next one is element k - 1. -/
theorem getD_reverse_earlier (earlier rest : List Word) {k : Nat} (h1 : 1 ≤ k) (hk : k ≤ earlier.length) :
    earlier.reverse.getD (k - 1) 0#32 = (earlier ++ rest).getD (earlier.length - k) 0#32 := by
  have hrev : earlier.length - 1 - (k - 1) = earlier.length - k := by omega
  rw [List.getD_append _ _ _ _ (by omega), List.getD_eq_getElem?_getD, List.getD_eq_getElem?_getD,
    List.getElem?_reverse (by omega), hrev]

/-- The recurrence with its columns indexed from the row's start (40_construct.md R83). -/
theorem nextColumn_reverse_earlier (e : DntEntry) (earlier rest : List Word) (h1 : 1 ≤ e.s)
    (hs : e.s ≤ earlier.length) :
    nextColumn e earlier.reverse =
      (List.range' 1 (e.s - 1)).foldl
        (fun t k => if coeffBit e k then t ^^^ (earlier ++ rest).getD (earlier.length - k) 0#32 else t)
        ((earlier ++ rest).getD (earlier.length - e.s) 0#32 ^^^
          ((earlier ++ rest).getD (earlier.length - e.s) 0#32 >>> e.s)) := by
  rw [nextColumn, getD_reverse_earlier earlier rest h1 hs]
  refine List.foldl_ext _ _ _ fun t k hk => ?_
  obtain ⟨hk1, hks⟩ := List.mem_range'_1.mp hk
  rw [getD_reverse_earlier earlier rest hk1 (by omega)]

/-- Settles O28: the row splits at column i, and `nextColumn` reads the columns before the split. -/
theorem builderRecurrence : Obligations.BuilderRecurrence := by
  intro c j h1 hj
  obtain ⟨e, he, hwf⟩ := romEntry_admitted c h1 hj
  refine ⟨e, he, buildRow_length c hj, fun i hi h32 => ?_⟩
  obtain ⟨earlier, later, hlen, hrow⟩ := tableRow_split e (p := i - 1) (by omega) (by omega)
  have hcol := nextColumn_reverse_earlier e earlier (nextColumn e earlier.reverse :: later)
    (wellFormed_degree hwf).1 (by omega)
  simp only [← hrow, hlen, coeffBit, beq_iff_eq, Nat.sub_right_comm i 1] at hcol
  rw [buildRow_of_romEntry (by omega) he, ← hcol, hrow, ← hlen, List.getElem?_append_right (Nat.le_refl _),
    Nat.sub_self, List.getElem?_cons_zero]

end Sys2Proof.Machine
end

section
/-! CFG out of range and REL (40_construct.md R88, R89). -/

namespace Sys2Proof.Machine

theorem exec_cfg_rejects {s : State} {d : BitVec 16} (h : d = 0#16 ∨ s.cfg.maxDim < d.toNat) :
    exec (.cfg d) s = .next (s.raise 0x1#4 .configError) := by
  have hbad : ¬ dimCountOk s.cfg d = true := by
    rw [dimCountOk_iff]
    rintro ⟨h0, hm⟩
    exact h.elim h0 (Nat.not_lt.mpr hm)
  simp [exec, execCfg, hbad]

/-- Settles O31: the operand check fails, and `raise` writes LAST_ERR alone. -/
theorem cfgRejectsOutOfRange : Obligations.CfgRejectsOutOfRange :=
  fun _ _ h => ⟨_, exec_cfg_rejects h, ⟨rfl, rfl, raise_sameOutside _ _ _⟩, raise_sameEngine _ _ _⟩

theorem exec_rel (s : State) : exec .rel s = .next (s.release.respond 0x7#4 []) := rfl

theorem release_reply (s : State) : Reply s (s.release.respond 0x7#4 []) [0x00007000#32] s.lastErr :=
  ⟨rfl, rfl, ⟨rfl, rfl, rfl, rfl, rfl⟩⟩

/-- REL has no operand, so bits 27:0 must be zero (30_encoding.md R65). -/
theorem rel_rest_rejected {w : Word} (hop : fieldOp w = 0x7#4) (hrest : fieldRest w ≠ 0#28) :
    RejectedAsIllegal w := by
  have hunused : fieldZ w ≠ 0#6 ∨ fieldI w ≠ 0#6 ∨ fieldJ w ≠ 0#16 := by
    contrapose! hrest
    obtain ⟨hz, hi, hj⟩ := hrest
    exact (fieldRest_eq_zero_iff w).mpr ⟨hi, hz, hj⟩
  exact rejectedAsIllegal_of_decode (decode_eq_illegal (.inr (by simpa [hop] using hunused)))

/-- Settles O32: REL leaves EMPTY, where RDX and RDV fail with NO_ENGINE. -/
theorem relReleasesEngine : Obligations.RelReleasesEngine := by
  refine ⟨fun s => ⟨_, exec_rel s, release_reply s, rfl, rfl, rfl, rfl, fun hl hs => ?_, fun j => ?_, fun j i => ?_⟩,
    rfl, fun _ hop hrest => rel_rest_rejected hop hrest⟩
  · exact ⟨hs.symm, (hl.emptyIffDimZero.mp hs).symm, (hl.emptyCounter hs).symm⟩
  · exact ⟨_, exec_rdx_empty j rfl, rfl⟩
  · exact ⟨_, exec_rdv_empty j i rfl, rfl⟩

end Sys2Proof.Machine
end

section
/-! DRAW in its four cases (41_draw.md R101 to R108): the next point, exhaustion, and no usable engine; and the
coordinate a drawn word stands for. -/

namespace Sys2Proof.Machine

/-! ## Illegal words -/

/-- An opcode without operands needs bits 27:0 to be zero (30_encoding.md R65). -/
theorem rest_rejected_of_noOperands {w : Word} (h1 : fieldOp w ≠ 0x1#4) (h3 : fieldOp w ≠ 0x3#4)
    (h4 : fieldOp w ≠ 0x4#4) (hrest : fieldRest w ≠ 0#28) : RejectedAsIllegal w := by
  have hunused : fieldZ w ≠ 0#6 ∨ fieldI w ≠ 0#6 ∨ fieldJ w ≠ 0#16 := by
    contrapose! hrest
    obtain ⟨hz, hi, hj⟩ := hrest
    exact (fieldRest_eq_zero_iff w).mpr ⟨hi, hz, hj⟩
  exact rejectedAsIllegal_of_decode (decode_eq_illegal (.inr (by simpa [h1, h3, h4] using hunused)))

/-! ## The next point -/

theorem toNat_add_one_of_ne_limit {n : Word} (h : n ≠ 0xFFFFFFFF#32) : (n + 1#32).toNat = n.toNat + 1 := by
  bv_omega

/-- LEN of a successful DRAW is DIM itself: both have 16 bits. -/
theorem respWord_draw (d : BitVec 16) :
    respWord d.toNat 0x2#4 .ok = (d.setWidth 32 <<< 16) ||| 0x00002000#32 := by
  simp [respWord, StatusCode.toByte, BitVec.ofNat_toNat]

/-- The words returned are the new point as it stands in X (41_draw.md R103). -/
theorem newPoint_eq_map_readX (s : State) : s.newPoint = (List.range s.dim.toNat).map s.advance.readX :=
  List.map_congr_left fun _ hj => (s.advance_readX (List.mem_range.mp hj)).symm

theorem draw_reply (s : State) :
    Reply s (s.advance.respond 0x2#4 s.newPoint)
      (((s.dim.setWidth 32 <<< 16) ||| 0x00002000#32) :: (List.range s.dim.toNat).map s.advance.readX) s.lastErr := by
  refine ⟨?_, rfl, ⟨rfl, rfl, rfl, rfl, rfl⟩⟩
  rw [State.respond_rsp, newPoint_length, respWord_draw, newPoint_eq_map_readX, State.advance_rsp]

/-- Settles O34: below its limit the counter does not wrap, and X holds the new words that are returned. -/
theorem drawAdvancesPoint : Obligations.DrawAdvancesPoint := by
  refine ⟨fun s hs hn => ⟨_, exec_draw_advances hs hn, draw_reply s, toNat_add_one_of_ne_limit hn, hs, rfl, rfl, rfl,
    newPoint_length s, by simp, fun j hj => ?_⟩, by decide, fun w hop hrest => ?_⟩
  · have hx : s.advance.readX j = s.newWord j := s.advance_readX hj
    refine ⟨hx, fun h hh => ?_⟩
    rw [State.respond_readX, hx]
    exact s.advance_hist_getElem? hj hh
  · exact rest_rejected_of_noOperands (by simp [hop]) (by simp [hop]) (by simp [hop]) hrest

/-! ## Exhaustion -/

/-- From N = 0 the counter counts the draws, and below its limit one more succeeds. -/
theorem exists_draws {s : State} (hs : s.state = .ready) (h0 : s.n = 0#32) {m : Nat} (hm : m ≤ 2 ^ 32 - 1) :
    ∃ t, Draws s m t ∧ t.n.toNat = m ∧ t.state = .ready := by
  induction m with
  | zero => exact ⟨s, .none, by rw [h0]; rfl, hs⟩
  | succ m ih =>
    obtain ⟨t, ht, hn, hready⟩ := ih (by omega)
    have hlimit : t.n ≠ 0xFFFFFFFF#32 := by bv_omega
    exact ⟨_, ht.step hready hlimit, (toNat_add_one_of_ne_limit hlimit).trans (congrArg (· + 1) hn), hready⟩

/-- Settles O35: the counter equals the number of draws, and a 32-bit register holds no more than 2^32 - 1. -/
theorem drawExhaustsExactlyAtLimit : Obligations.DrawExhaustsExactlyAtLimit := by
  refine ⟨fun s hs hn => ?_, fun c d s hc => ?_⟩
  · exact ⟨_, exec_draw_exhausts hs hn, ⟨rfl, rfl, ⟨rfl, rfl, rfl, rfl, rfl⟩⟩, rfl, rfl, rfl, rfl, rfl, rfl, rfl⟩
  · obtain ⟨-, hs, -, h0, -, -, -, -⟩ := hc.facts
    refine ⟨fun m hm => exists_draws hs h0 hm, fun m t ht => ?_⟩
    obtain ⟨-, -, -, -, -, hn⟩ := ht.facts hs
    have hlt := t.n.isLt
    omega

/-! ## No usable engine -/

theorem exec_leaves_exhausted {i : Instr} {s t : State} (h : exec i s = .next t) (hs : s.state = .exhausted)
    (ht : t.state ≠ .exhausted) : i = .rel ∨ ∃ d, i = .cfg d ∧ d ≠ 0#16 ∧ d.toNat ≤ s.cfg.maxDim := by
  obtain ⟨code, -, rfl⟩ | ⟨-, hready, -, -⟩ | ⟨data, -, rfl⟩ | ⟨d, rfl, h0, hm, -⟩ | ⟨-, hready, -, -⟩ | ⟨rfl, -⟩ :=
    exec_cases h
  · exact absurd hs ht
  · simp [hs] at hready
  · exact absurd hs ht
  · exact .inr ⟨d, rfl, h0, hm⟩
  · simp [hs] at hready
  · exact .inl rfl

theorem step_leaves_exhausted {s t : State} (h : step s = .next t) (hs : s.state = .exhausted)
    (ht : t.state ≠ .exhausted) :
    s.inputs.head? = some .reset ∨ s.inputs.head? = some .resetInFlight ∨
      ∃ w, s.program[s.k]? = some w ∧ (decode w = .rel ∨
        ∃ d, decode w = .cfg d ∧ d ≠ 0#16 ∧ d.toNat ≤ s.cfg.maxDim) := by
  obtain ⟨s₀, h0, hc⟩ := step_cases h
  obtain ⟨hstate, hcfg⟩ : s₀.state = .exhausted ∧ s₀.cfg = s.cfg := by
    obtain rfl | rfl := h0
    · exact ⟨hs, rfl⟩
    · exact ⟨hs, rfl⟩
  obtain rfl | rfl | ⟨hreset, -⟩ | ⟨hflight, -⟩ | ⟨w, hw, hexec, -⟩ := hc
  · exact absurd hstate ht
  · exact absurd (s₀.takeWord_state.trans hstate) ht
  · exact .inl hreset
  · exact .inr (.inl hflight)
  · have hleave := exec_leaves_exhausted hexec hstate ht
    rw [State.accept_cfg, State.drain_cfg, hcfg] at hleave
    exact .inr (.inr ⟨w, hw, hleave⟩)

/-- Settles O36: both failures only `raise`; of the six things a command can do, only constructing and
releasing move STATE out of EXHAUSTED. -/
theorem drawFailsWithoutUsableEngine : Obligations.DrawFailsWithoutUsableEngine :=
  ⟨fun _ hs => ⟨_, exec_draw_empty hs, ⟨rfl, rfl, raise_sameOutside _ _ _⟩, raise_sameEngine _ _ _⟩,
    fun _ hs => ⟨_, exec_draw_exhausted hs, ⟨rfl, rfl, raise_sameOutside _ _ _⟩, raise_sameEngine _ _ _⟩,
    fun _ _ hs hstep ht => step_leaves_exhausted hstep hs ht⟩

/-! ## The coordinate of a word (41_draw.md R104) -/

theorem coordinate_mul (w : Word) : coordinate w * 2 ^ 32 = (w.toNat : ℚ) :=
  div_mul_cancel₀ _ (by norm_num)

theorem coordinate_le (w : Word) : coordinate w ≤ 1 - 1 / 2 ^ 32 := by
  have hnat : w.toNat + 1 ≤ 2 ^ 32 := w.isLt
  have hrat : (w.toNat : ℚ) + 1 ≤ 2 ^ 32 := by exact_mod_cast hnat
  rw [coordinate, le_sub_iff_add_le, ← add_div]
  exact div_le_one_of_le₀ hrat (by positivity)

/-- Settles O42: a word is at most 2^32 - 1. -/
theorem coordinateInUnitInterval : Obligations.CoordinateInUnitInterval := by
  refine fun w => ⟨coordinate_mul w, ?_, coordinate_le w, (coordinate_le w).trans_lt (by norm_num)⟩
  rw [coordinate]
  positivity

end Sys2Proof.Machine
end

section
/-! The observers (42_observe.md R120 to R124): what they answer in each of their cases, the words that decode to
them, and the fields of STATUS and CAPS. -/

namespace Sys2Proof

/-! ## The words that decode to RDX and RDV -/

theorem decode_of_op3 {w : Word} (hop : fieldOp w = 0x3#4) (hi : fieldI w = 0#6) (hz : fieldZ w = 0#6) :
    decode w = .rdx (fieldJ w) := by
  simp [decode, hop, hi, hz]

theorem decode_of_op4 {w : Word} (hop : fieldOp w = 0x4#4) (hz : fieldZ w = 0#6) :
    decode w = .rdv (fieldJ w) (fieldI w) := by
  simp [decode, hop, hz]

theorem wordOfFields_rdx (j : BitVec 16) : wordOfFields 0x3#4 0#6 0#6 j = 0x30000000#32 ||| j.setWidth 32 := by
  simp [wordOfFields]

theorem wordOfFields_rdv (j : BitVec 16) (i : BitVec 6) :
    wordOfFields 0x4#4 i 0#6 j = 0x40000000#32 ||| (i.setWidth 32 <<< 22) ||| j.setWidth 32 := by
  simp [wordOfFields]

theorem decode_rdx_word (j : BitVec 16) : decode (0x30000000#32 ||| j.setWidth 32) = .rdx j := by
  rw [← wordOfFields_rdx, decode_of_op3 (fieldOp_wordOfFields _ _ _ _) (fieldI_wordOfFields _ _ _ _)
    (fieldZ_wordOfFields _ _ _ _), fieldJ_wordOfFields]

theorem decode_rdv_word (j : BitVec 16) (i : BitVec 6) :
    decode (0x40000000#32 ||| (i.setWidth 32 <<< 22) ||| j.setWidth 32) = .rdv j i := by
  rw [← wordOfFields_rdv, decode_of_op4 (fieldOp_wordOfFields _ _ _ _) (fieldZ_wordOfFields _ _ _ _),
    fieldJ_wordOfFields, fieldI_wordOfFields]

namespace Machine

/-- `rest_rejected_of_noOperands` at an opcode given as a literal. -/
theorem rest_rejected_of_opcode {op : BitVec 4} (h : op ≠ 0x1#4 ∧ op ≠ 0x3#4 ∧ op ≠ 0x4#4) {w : Word}
    (hop : fieldOp w = op) (hrest : fieldRest w ≠ 0#28) : RejectedAsIllegal w := by
  subst hop
  obtain ⟨h1, h3, h4⟩ := h
  exact rest_rejected_of_noOperands h1 h3 h4 hrest

/-! ## What `respond` and `raise` answer -/

theorem respond_reply {s : State} {op : BitVec 4} {data : List Word} {r : Word}
    (hr : respWord data.length op .ok = r) : Reply s (s.respond op data) (r :: data) s.lastErr :=
  ⟨by rw [State.respond_rsp, hr], rfl, ⟨rfl, rfl, rfl, rfl, rfl⟩⟩

theorem respond_sameEngine (s : State) (op : BitVec 4) (data : List Word) : SameEngine s (s.respond op data) :=
  ⟨rfl, rfl, rfl, rfl, rfl, rfl, rfl⟩

theorem raise_reply (s : State) (op : BitVec 4) (code : StatusCode) :
    Reply s (s.raise op code) [respWord 0 op code] code.toByte :=
  ⟨rfl, rfl, raise_sameOutside _ _ _⟩

theorem respWord_rdx : respWord 1 0x3#4 .ok = 0x00013000#32 := by decide

theorem respWord_rdv : respWord 1 0x4#4 .ok = 0x00014000#32 := by decide

theorem respWord_rdn : respWord 1 0x5#4 .ok = 0x00015000#32 := by decide

/-! ## The observers, by their conditions -/

theorem exec_nop (s : State) : exec .nop s = .next (s.respond 0x0#4 []) := rfl

theorem exec_rdx_out_of_range {s : State} {j : BitVec 16} (hs : s.state ≠ .empty) (hj : s.dim.toNat ≤ j.toNat) :
    exec (.rdx j) s = .next (s.raise 0x3#4 .indexRange) := by
  have hbad : ¬ dimIndexOk s j = true := by
    rw [dimIndexOk_iff]
    exact Nat.not_lt.mpr hj
  simp [exec, execRdx, hs, hbad]

theorem exec_rdv_out_of_range {s : State} {j : BitVec 16} {i : BitVec 6} (hs : s.state ≠ .empty)
    (h : s.dim.toNat ≤ j.toNat ∨ i.toNat = 0 ∨ 32 < i.toNat) :
    exec (.rdv j i) s = .next (s.raise 0x4#4 .indexRange) := by
  have hbad : ¬ (dimIndexOk s j && columnOk i) = true := by
    rw [Bool.and_eq_true, dimIndexOk_iff, columnOk_iff]
    omega
  simp only [exec, execRdv, if_neg hs, if_neg hbad]

theorem exec_rdn_empty {s : State} (hs : s.state = .empty) : exec .rdn s = .next (s.raise 0x5#4 .noEngine) := by
  simp [exec, execRdn, hs]

/-! ## NOP and RDX -/

/-- Settles O44: NOP only responds, and its word is zero. -/
theorem nopRespondsAndChangesNothing : Obligations.NopRespondsAndChangesNothing :=
  ⟨fun s => ⟨_, exec_nop s, respond_reply rfl, respond_sameEngine _ _ _⟩, rfl,
    fun _ hop hrest => rest_rejected_of_opcode (by decide) hop hrest⟩

/-- The data words of a successful DRAW are the new X, dimension by dimension. -/
theorem draw_emits_readX {s t : State} (hs : s.state = .ready) (hn : s.n ≠ 0xFFFFFFFF#32)
    (h : exec .draw s = .next t) :
    ∃ r data, t.rsp = s.rsp ++ r :: data ∧ ∀ j, j < t.dim.toNat → data[j]? = some (t.readX j) := by
  obtain rfl : s.advance.respond 0x2#4 s.newPoint = t := by
    simpa only [exec_draw_advances hs hn, Host.Outcome.next.injEq] using h
  refine ⟨_, s.newPoint, rfl, fun j hj => ?_⟩
  rw [State.respond_readX, s.advance_readX hj, s.newPoint_getElem? hj]

/-- Settles O45: RDX in range responds with X[j] and else only raises; CFG zeroes X, and DRAW emits the X it
writes. -/
theorem rdxReadsPoint : Obligations.RdxReadsPoint := by
  refine ⟨fun j s => ⟨fun hs hj => ?_, fun hs => ?_, fun hs hj => ?_, decode_rdx_word j⟩, fun w hop h => ?_,
    fun c d s hc => ?_, fun s t hs hn h => draw_emits_readX hs hn h⟩
  · exact ⟨_, exec_rdx_reads hs hj, respond_reply respWord_rdx, respond_sameEngine _ _ _⟩
  · exact ⟨_, exec_rdx_empty j hs, raise_reply s 0x3#4 .noEngine, raise_sameEngine _ _ _⟩
  · exact ⟨_, exec_rdx_out_of_range hs hj, raise_reply s 0x3#4 .indexRange, raise_sameEngine _ _ _⟩
  · have hunused : fieldZ w ≠ 0#6 ∨ (fieldOp w ≠ 0x4#4 ∧ fieldI w ≠ 0#6) :=
      h.symm.imp_right fun hi => ⟨by simp [hop], hi⟩
    exact rejectedAsIllegal_of_decode (decode_eq_illegal (.inr (hunused.imp_right .inl)))
  · obtain ⟨-, -, -, -, -, hzero, -, -⟩ := hc.facts
    exact hzero

/-! ## RDV -/

/-- Row 0 of the builder's matrix ends with the open column. -/
theorem readV_zero_32 {s : State} (h : Storage s) (hd : 0 < s.dim.toNat) : s.readV 0 32 = s.cfg.row0Col32 := by
  have hrow : s.v[0]? = some (rowZero s.cfg) := by
    rw [h.matrix, build_getElem? s.cfg hd, buildRow_zero]
  rw [State.readV, if_neg (by decide), hrow, Option.bind_some, rowZero_last, Option.getD_some]

/-- Settles O46: RDV in range responds with V[j][i] and else only raises. -/
theorem rdvReadsMatrix : Obligations.RdvReadsMatrix := by
  refine ⟨fun j i s => ⟨fun hs hj h1 h32 => ?_, fun hs => ?_, fun hs h => ?_, decode_rdv_word j i⟩,
    fun w _ hz => rejectedAsIllegal_of_decode (decode_eq_illegal (.inr (.inl hz))), fun s h hd => readV_zero_32 h hd⟩
  · exact ⟨_, exec_rdv_reads hs hj h1 h32, respond_reply respWord_rdv, respond_sameEngine _ _ _⟩
  · exact ⟨_, exec_rdv_empty j i hs, raise_reply s 0x4#4 .noEngine, raise_sameEngine _ _ _⟩
  · exact ⟨_, exec_rdv_out_of_range hs h, raise_reply s 0x4#4 .indexRange, raise_sameEngine _ _ _⟩

/-! ## RDN -/

theorem rdn_reads_counter {s : State} (hs : s.state ≠ .empty) : ∃ t, exec .rdn s = .next t ∧
    Reply s t [0x00015000#32, s.n] s.lastErr ∧ SameEngine s t :=
  ⟨_, exec_rdn_reads hs, respond_reply respWord_rdn, respond_sameEngine _ _ _⟩

/-- A run of draws from a just constructed engine counts itself in N. -/
theorem draws_counter {c : Config} {d : BitVec 16} {s t : State} {m : Nat} (hc : JustConstructed c d s)
    (h : Draws s m t) : t.state = .ready ∧ t.n = BitVec.ofNat 32 m := by
  obtain ⟨-, hs, -, h0, -, -, -, -⟩ := hc.facts
  obtain ⟨-, ht, -, -, -, hn⟩ := h.facts hs
  refine ⟨ht, BitVec.eq_of_toNat_eq ?_⟩
  have hlt := t.n.isLt
  rw [h0, BitVec.toNat_zero, Nat.zero_add] at hn
  rw [BitVec.toNat_ofNat, Nat.mod_eq_of_lt (by omega), hn]

/-- Settles O48: RDN reads N, which counts the draws and stands at its limit in EXHAUSTED. -/
theorem rdnReadsCounter : Obligations.RdnReadsCounter := by
  refine ⟨fun s hs => rdn_reads_counter hs, fun s hs => ?_, rfl,
    fun w hop hrest => rest_rejected_of_opcode (by decide) hop hrest, fun c d s t m hc h => ?_, fun s hl hs => ?_⟩
  · exact ⟨_, exec_rdn_empty hs, raise_reply s 0x5#4 .noEngine, raise_sameEngine _ _ _⟩
  · obtain ⟨ht, hn⟩ := draws_counter hc h
    obtain ⟨u, hu, hreply, -⟩ := rdn_reads_counter (s := t) (by simp [ht])
    exact ⟨u, hu, hn ▸ hreply.rsp⟩
  · obtain ⟨t, ht, hreply, -⟩ := rdn_reads_counter (s := s) (by simp [hs])
    exact ⟨t, ht, hl.exhaustedAtLimit hs ▸ hreply.rsp⟩

/-! ## STAT: the fields of STATUS (10_state.md R30) and CAPS (R31) -/

theorem statusWord_dim (s : State) : (statusWord s).extractLsb' 16 16 = s.dim := by
  unfold statusWord
  ext k hk
  simp [show 16 + k < 32 by omega, hk, s.lastErr.getLsbD_of_ge (16 + k - 8) (by omega),
    s.state.bits.getLsbD_of_ge (16 + k) (by omega)]

theorem statusWord_reserved (s : State) : (statusWord s).extractLsb' 2 6 = 0#6 := by
  unfold statusWord
  ext k hk
  simp [show 2 + k < 16 by omega, show 2 + k < 8 by omega]

theorem statusWord_state (s : State) : (statusWord s).extractLsb' 0 2 = s.state.bits := by
  unfold statusWord
  ext k hk
  simp [show k < 32 by omega, show k < 16 by omega, show k < 8 by omega, hk]

/-- MAX_DIM fits the low 16 bits of CAPS, for an admitted configuration. -/
theorem capsWord_eq (c : Config) : capsWord c = 0x01200000#32 ||| (BitVec.ofNat 16 c.maxDim).setWidth 32 := by
  obtain ⟨-, hmax, -⟩ := admitted_bounds c
  have hfit : BitVec.ofNat 32 c.maxDim = (BitVec.ofNat 16 c.maxDim).setWidth 32 :=
    BitVec.eq_of_toNat_eq (by simp only [BitVec.toNat_ofNat, BitVec.toNat_setWidth]; omega)
  rw [capsWord, hfit]

/-- The bits of CAPS above MAX_DIM are those of its constant part. -/
theorem capsWord_high (c : Config) {start : Nat} (h : 16 ≤ start) :
    (capsWord c).extractLsb' start 8 = (0x01200000#32).extractLsb' start 8 := by
  rw [capsWord_eq]
  ext k hk
  simp [(BitVec.ofNat 16 c.maxDim).getLsbD_of_ge (start + k) (by omega)]

theorem capsWord_maxDim (c : Config) : ((capsWord c).extractLsb' 0 16).toNat = c.maxDim := by
  obtain ⟨-, hmax, -⟩ := admitted_bounds c
  have hlow : (capsWord c).extractLsb' 0 16 = BitVec.ofNat 16 c.maxDim := by
    rw [capsWord_eq, BitVec.extractLsb'_or, show (0x01200000#32).extractLsb' 0 16 = 0#16 by decide,
      BitVec.zero_or, ← BitVec.setWidth_eq_extractLsb' (by omega), BitVec.setWidth_setWidth_of_le _ (by omega),
      BitVec.setWidth_eq]
  rw [hlow, BitVec.toNat_ofNat]
  omega

/-- Settles O49: STAT responds with STATUS and CAPS, whose fields lie side by side. -/
theorem statReportsStatusAndCaps : Obligations.StatReportsStatusAndCaps := by
  refine ⟨fun s => ⟨s.respond 0x6#4 [statusWord s, capsWord s.cfg], _, _, rfl, respond_reply respWord_stat,
    respond_sameEngine _ _ _, statusWord_dim s, statusWord_lastErr s, statusWord_reserved s, ?_,
    capsWord_high _ (by omega), capsWord_high _ (by omega), capsWord_maxDim _⟩, rfl,
    fun w hop hrest => rest_rejected_of_opcode (by decide) hop hrest⟩
  rw [statusWord_state]
  cases s.state <;> rfl

end Machine

end Sys2Proof
end

section
/-! Status codes (60_exceptions.md R141, R147, R148): the cause of each code, that a command reports a code exactly
under its cause, and what a failing command leaves. -/

namespace Sys2Proof

/-! ## The words that decode to ILLEGAL (30_encoding.md R64, R65) -/

/-- The converse of `decode_eq_illegal`: an opcode below 8 whose unused fields are zero is its command's. -/
theorem unusedBits_of_decode_illegal {w : Word} {op : BitVec 4} {rest : BitVec 28} (h : decode w = .illegal op rest) :
    8 ≤ (fieldOp w).toNat ∨ fieldZ w ≠ 0#6 ∨ (fieldOp w ≠ 0x4#4 ∧ fieldI w ≠ 0#6) ∨
      (fieldOp w ≠ 0x1#4 ∧ fieldOp w ≠ 0x3#4 ∧ fieldOp w ≠ 0x4#4 ∧ fieldJ w ≠ 0#16) := by
  by_contra! hlegal
  obtain ⟨hlow, hz, hi, hj⟩ := hlegal
  have hrest (h1 : fieldOp w ≠ 0x1#4) (h3 : fieldOp w ≠ 0x3#4) (h4 : fieldOp w ≠ 0x4#4) : fieldRest w = 0#28 :=
    (fieldRest_eq_zero_iff w).mpr ⟨hi h4, hz, hj h1 h3 h4⟩
  by_cases h1 : fieldOp w = 0x1#4
  · simp [decode, h1, hz, hi (by simp [h1])] at h
  by_cases h3 : fieldOp w = 0x3#4
  · simp [decode_of_op3 h3 (hi (by simp [h3])) hz] at h
  by_cases h4 : fieldOp w = 0x4#4
  · simp [decode_of_op4 h4 hz] at h
  have hop : fieldOp w = 0x0#4 ∨ fieldOp w = 0x2#4 ∨ fieldOp w = 0x5#4 ∨ fieldOp w = 0x6#4 ∨ fieldOp w = 0x7#4 := by
    bv_omega
  obtain hop | hop | hop | hop | hop := hop <;> simp [decode, hop, hrest h1 h3 h4] at h

theorem decode_illegal_iff (w : Word) : (∃ op rest, decode w = .illegal op rest) ↔
    (8 ≤ (fieldOp w).toNat ∨ fieldZ w ≠ 0#6 ∨ (fieldOp w ≠ 0x4#4 ∧ fieldI w ≠ 0#6) ∨
      (fieldOp w ≠ 0x1#4 ∧ fieldOp w ≠ 0x3#4 ∧ fieldOp w ≠ 0x4#4 ∧ fieldJ w ≠ 0#16)) :=
  ⟨fun ⟨_, _, h⟩ => unusedBits_of_decode_illegal h, fun h => ⟨_, _, decode_eq_illegal h⟩⟩

namespace Machine

/-! ## The cause of each code -/

/-- The cause of a code, where R148's order already stands in the conditions (INDEX_RANGE and COUNTER_EXHAUSTED
need an engine); OK has none. -/
def Cause (i : Instr) (s : State) : StatusCode → Prop
  | .ok => False
  | .configError => ∃ d, i = .cfg d ∧ (d = 0#16 ∨ s.cfg.maxDim < d.toNat)
  | .counterExhausted => i = .draw ∧ (s.state = .exhausted ∨ (s.state = .ready ∧ s.n = 0xFFFFFFFF#32))
  | .noEngine => s.state = .empty ∧ (i = .draw ∨ (∃ j, i = .rdx j) ∨ (∃ j col, i = .rdv j col) ∨ i = .rdn)
  | .illegalCommand => ∃ op rest, i = .illegal op rest
  | .indexRange => s.state ≠ .empty ∧ ((∃ j, i = .rdx j ∧ s.dim.toNat ≤ j.toNat) ∨
      ∃ j col, i = .rdv j col ∧ (s.dim.toNat ≤ j.toNat ∨ col.toNat < 1 ∨ 32 < col.toNat))

/-- In state `s` the command `i` completes with a response of code `code`. -/
def Reports (i : Instr) (s : State) (code : StatusCode) : Prop :=
  ∃ t data, exec i s = .next t ∧ t.rsp = s.rsp ++ respWord data.length i.opcode code :: data

theorem reports_of_raise {i : Instr} {s t : State} {code : StatusCode} (h : exec i s = .next (t.raise i.opcode code))
    (hrsp : t.rsp = s.rsp) : Reports i s code :=
  ⟨_, [], h, by simp [hrsp]⟩

theorem reports_of_respond {i : Instr} {s t : State} {data : List Word}
    (h : exec i s = .next (t.respond i.opcode data)) (hrsp : t.rsp = s.rsp) : Reports i s .ok :=
  ⟨_, data, h, by simp [hrsp]⟩

theorem reports_of_cause {i : Instr} {s : State} {code : StatusCode} (h : Cause i s code) : Reports i s code := by
  cases code with
  | ok => exact h.elim
  | configError =>
    obtain ⟨d, rfl, hd⟩ := h
    exact reports_of_raise (exec_cfg_rejects hd) rfl
  | counterExhausted =>
    obtain ⟨rfl, hs | ⟨hs, hn⟩⟩ := h
    · exact reports_of_raise (exec_draw_exhausted hs) rfl
    · exact reports_of_raise (exec_draw_exhausts hs hn) rfl
  | noEngine =>
    obtain ⟨hs, rfl | ⟨j, rfl⟩ | ⟨j, col, rfl⟩ | rfl⟩ := h
    · exact reports_of_raise (exec_draw_empty hs) rfl
    · exact reports_of_raise (exec_rdx_empty j hs) rfl
    · exact reports_of_raise (exec_rdv_empty j col hs) rfl
    · exact reports_of_raise (exec_rdn_empty hs) rfl
  | illegalCommand =>
    obtain ⟨op, rest, rfl⟩ := h
    exact reports_of_raise (exec_illegal op rest s) rfl
  | indexRange =>
    obtain ⟨hs, ⟨j, rfl, hj⟩ | ⟨j, col, rfl, hcell⟩⟩ := h
    · exact reports_of_raise (exec_rdx_out_of_range hs hj) rfl
    · exact reports_of_raise (exec_rdv_out_of_range hs (by omega)) rfl

theorem reports_ok_of_no_cause {i : Instr} {s : State} (h : ∀ code, ¬ Cause i s code) : Reports i s .ok := by
  have hempty := h .noEngine
  have hrange := h .indexRange
  cases i with
  | nop => exact reports_of_respond (exec_nop s) rfl
  | cfg d =>
    have hd : ¬ (d = 0#16 ∨ s.cfg.maxDim < d.toNat) := fun hd => h .configError ⟨d, rfl, hd⟩
    obtain ⟨h0, hm⟩ := not_or.mp hd
    exact reports_of_respond (exec_cfg_constructs h0 (Nat.not_lt.mp hm)) rfl
  | draw =>
    have hlimit := h .counterExhausted
    cases hs : s.state with
    | empty => exact absurd ⟨hs, .inl rfl⟩ hempty
    | exhausted => exact absurd ⟨rfl, .inl hs⟩ hlimit
    | ready => exact reports_of_respond (exec_draw_advances hs fun hn => hlimit ⟨rfl, .inr ⟨hs, hn⟩⟩) rfl
  | rdx j =>
    have hs : s.state ≠ .empty := fun hs => hempty ⟨hs, .inr (.inl ⟨j, rfl⟩)⟩
    have hj : ¬ s.dim.toNat ≤ j.toNat := fun hj => hrange ⟨hs, .inl ⟨j, rfl, hj⟩⟩
    exact reports_of_respond (exec_rdx_reads hs (Nat.not_le.mp hj)) rfl
  | rdv j col =>
    have hs : s.state ≠ .empty := fun hs => hempty ⟨hs, .inr (.inr (.inl ⟨j, col, rfl⟩))⟩
    have hcell : ¬ (s.dim.toNat ≤ j.toNat ∨ col.toNat < 1 ∨ 32 < col.toNat) :=
      fun hcell => hrange ⟨hs, .inr ⟨j, col, rfl, hcell⟩⟩
    exact reports_of_respond (exec_rdv_reads hs (by omega) (by omega) (by omega)) rfl
  | rdn =>
    have hs : s.state ≠ .empty := fun hs => hempty ⟨hs, .inr (.inr (.inr rfl))⟩
    exact reports_of_respond (exec_rdn_reads hs) rfl
  | stat => exact reports_of_respond (t := s) (data := [_, _]) rfl rfl
  | rel => exact reports_of_respond (exec_rel s) rfl
  | illegal op rest => exact absurd ⟨op, rest, rfl⟩ (h .illegalCommand)

theorem StatusCode.toByte_inj {code code' : StatusCode} : code.toByte = code'.toByte ↔ code = code' := by
  cases code <;> cases code' <;> decide

/-- `exec` is a function, so one execution has one code. -/
theorem Reports.unique {i : Instr} {s : State} {code code' : StatusCode} (h : Reports i s code)
    (h' : Reports i s code') : code = code' := by
  obtain ⟨t, data, ht, hrsp⟩ := h
  obtain ⟨t', data', ht', hrsp'⟩ := h'
  obtain rfl : t = t' := Host.Outcome.next.inj (ht.symm.trans ht')
  obtain ⟨hword, -⟩ := List.cons.inj (List.append_cancel_left (hrsp.symm.trans hrsp'))
  have hcode := congrArg respCode hword
  rwa [respCode_respWord, respCode_respWord, StatusCode.toByte_inj] at hcode

/-- Any cause a command has is the one it reports, and without a cause it reports OK. -/
theorem Reports.eq_iff_cause {i : Instr} {s : State} {code code' : StatusCode} (h : Reports i s code)
    (hfail : code' ≠ .ok) : code = code' ↔ Cause i s code' := by
  constructor
  · rintro rfl
    by_cases hcause : ∃ c, Cause i s c
    · obtain ⟨c, hc⟩ := hcause
      rwa [h.unique (reports_of_cause hc)]
    · exact absurd (h.unique (reports_ok_of_no_cause (not_exists.mp hcause))) hfail
  · exact fun hcause => h.unique (reports_of_cause hcause)

/-- Settles O11: a cause makes the command report its code, no cause makes it report OK, and a command reports one
code; words are illegal by their bits alone. -/
theorem statusCodeTellsFirstCause : Obligations.StatusCodeTellsFirstCause := by
  refine ⟨decode_illegal_iff, fun i s => ?_⟩
  obtain ⟨t, code, data, ht, hrsp, -, -⟩ := exec_responds i s
  have hiff (code' : StatusCode) (hfail : code' ≠ .ok) :
      respCode (respWord data.length i.opcode code) = code'.toByte ↔ Cause i s code' := by
    rw [respCode_respWord, StatusCode.toByte_inj, Reports.eq_iff_cause ⟨t, data, ht, hrsp⟩ hfail]
  refine ⟨t, _, data, ht, hrsp, hiff .illegalCommand (by decide), hiff .noEngine (by decide),
    hiff .counterExhausted (by decide), hiff .indexRange (by decide), hiff .configError (by decide), ?_⟩
  rw [respCode_respWord]
  exact code.toByte_le

/-! ## What a failing command leaves -/

theorem respCode_ok (len : Nat) (op : BitVec 4) : respCode (respWord len op .ok) = 0x00#8 :=
  respCode_respWord len op .ok

/-- Settles O12: of the six things a command can do, two fail. Both `raise`, which writes LAST_ERR and the response
alone, and one first sets STATE to EXHAUSTED; the other four respond with OK. -/
theorem failuresArePrecise : Obligations.FailuresArePrecise := by
  intro i s
  obtain ⟨t, ht⟩ := exec_completes i s
  obtain ⟨code, -, rfl⟩ | ⟨rfl, hs, hn, rfl⟩ | ⟨data, -, rfl⟩ | ⟨d, -, -, -, rfl⟩ | ⟨-, -, -, rfl⟩ | ⟨-, rfl⟩ :=
    exec_cases ht
  · exact ⟨_, _, [], ht, rfl, fun _ => ⟨rfl, respLen_respWord _ _ _ (by decide), respOp_respWord _ _ _,
      (respCode_respWord _ _ _).symm, raise_sameOutside _ _ _, rfl, rfl, rfl, rfl, rfl, rfl, .inl rfl⟩⟩
  · exact ⟨_, _, [], ht, rfl, fun _ => ⟨rfl, respLen_respWord _ _ _ (by decide), respOp_respWord _ _ _,
      (respCode_respWord 0 0x2#4 .counterExhausted).symm, ⟨rfl, rfl, rfl, rfl, rfl⟩, rfl, rfl, rfl, rfl, rfl, rfl,
      .inr ⟨rfl, hs, hn, rfl⟩⟩⟩
  · exact ⟨_, _, data, ht, rfl, fun hc => absurd (respCode_ok _ _) hc⟩
  · exact ⟨_, _, [], ht, rfl, fun hc => absurd (respCode_ok _ _) hc⟩
  · exact ⟨_, _, s.newPoint, ht, rfl, fun hc => absurd (respCode_ok _ _) hc⟩
  · exact ⟨_, _, [], ht, rfl, fun hc => absurd (respCode_ok _ _) hc⟩

end Machine

end Sys2Proof
end

section
/-! The invariants a step keeps: every step is made of what leaves the engine alone and five operations on it. -/

namespace Sys2Proof.Machine

theorem SameEngine.readX_eq {s t : State} (h : SameEngine s t) (j : Nat) : t.readX j = s.readX j := by
  rw [State.readX, State.readX, h.x, h.epoch]

theorem SameEngine.readV_eq {s t : State} (h : SameEngine s t) (j i : Nat) : t.readV j i = s.readV j i := by
  rw [State.readV, State.readV, h.v, h.epoch]

theorem SameEngine.trans {s t u : State} (h : SameEngine s t) (h' : SameEngine t u) : SameEngine s u :=
  ⟨h'.state.trans h.state, h'.dim.trans h.dim, h'.n.trans h.n, h'.v.trans h.v, h'.x.trans h.x, h'.hist.trans h.hist,
    h'.epoch.trans h.epoch⟩

theorem takeWord_sameEngine (s : State) : SameEngine s s.takeWord := by constructor <;> simp

/-- A property of the engine, the configuration and LAST_ERR that each operation on the engine keeps. -/
structure KeptByOperations (P : State → Prop) : Prop where
  frame : ∀ {s t : State}, SameEngine s t → t.cfg = s.cfg →
    (t.lastErr = s.lastErr ∨ ∃ code : StatusCode, t.lastErr = code.toByte) → P s → P t
  construct : ∀ {s : State} {d : BitVec 16}, d ≠ 0#16 → d.toNat ≤ s.cfg.maxDim → P s → P (s.construct d)
  advance : ∀ {s : State}, s.state = .ready → s.n ≠ 0xFFFFFFFF#32 → P s → P s.advance
  exhaust : ∀ {s : State}, s.state = .ready → s.n = 0xFFFFFFFF#32 → P s → P s.exhaust
  release : ∀ {s : State}, P s → P s.release
  hardwareReset : ∀ {s : State}, P s → P s.hardwareReset

namespace KeptByOperations

variable {P : State → Prop} (hP : KeptByOperations P) {s t : State}
include hP

theorem respond (op : BitVec 4) (data : List Word) (hs : P s) : P (s.respond op data) :=
  hP.frame (respond_sameEngine s op data) rfl (.inl rfl) hs

theorem raise (op : BitVec 4) (code : StatusCode) (hs : P s) : P (s.raise op code) :=
  hP.frame (raise_sameEngine s op code) rfl (.inr ⟨code, rfl⟩) hs

theorem exec {i : Instr} (hs : P s) (h : exec i s = .next t) : P t := by
  obtain ⟨code, -, rfl⟩ | ⟨-, hr, hn, rfl⟩ | ⟨data, -, rfl⟩ | ⟨d, -, h0, hm, rfl⟩ | ⟨-, hr, hn, rfl⟩ | ⟨-, rfl⟩ :=
    exec_cases h
  · exact hP.raise _ _ hs
  · exact hP.raise _ _ (hP.exhaust hr hn hs)
  · exact hP.respond _ _ hs
  · exact hP.respond _ _ (hP.construct h0 hm hs)
  · exact hP.respond _ _ (hP.advance hr hn hs)
  · exact hP.respond _ _ (hP.release hs)

theorem step (hs : P s) (h : step s = .next t) : P t :=
  step_induction (P := P) (fun _ => hP.frame ⟨rfl, rfl, rfl, rfl, rfl, rfl, rfl⟩ rfl (.inl rfl))
    (fun s => hP.frame (takeWord_sameEngine s) s.takeWord_cfg (.inl s.takeWord_lastErr))
    (fun _ => hP.hardwareReset) (fun _ => hP.frame ⟨rfl, rfl, rfl, rfl, rfl, rfl, rfl⟩ rfl (.inl rfl))
    (fun _ _ _ => hP.exec) hs h

end KeptByOperations

end Sys2Proof.Machine
end

section
/-! The Gray code and the closed form of the point (00_scope.md R10, 41_draw.md R106). -/

namespace Sys2Proof.Machine

/-! ## One step of the Gray code -/

/-- The bits below `k` are all ones exactly when `k` is not above the lowest zero bit. -/
theorem ones_below_iff {n : Word} (hn : n ≠ 0xFFFFFFFF#32) (k : Nat) :
    (∀ b, b < k → n.getLsbD b = true) ↔ k ≤ rzb n - 1 := by
  constructor
  · intro h
    by_contra hk
    have hone := h (rzb n - 1) (by omega)
    rw [getLsbD_rzb_of_le ((rzb_le_iff n).mpr hn)] at hone
    exact Bool.false_ne_true hone
  · exact fun hk b hb => getLsbD_of_lt_rzb (by omega)

/-- Adding 1 flips the bits up to and with the lowest zero bit. -/
theorem getLsbD_add_one {n : Word} (hn : n ≠ 0xFFFFFFFF#32) (k : Nat) :
    (n + 1#32).getLsbD k = (n.getLsbD k ^^ decide (k ≤ rzb n - 1)) := by
  have hneg : n + 1#32 = -(~~~n) := by rw [BitVec.neg_eq_not_add, BitVec.not_not]
  by_cases hk : k < 32
  · have hborrow : decide (∃ b < k, (~~~n).getLsbD b = true) = !decide (k ≤ rzb n - 1) := by
      rw [← decide_not, decide_eq_decide, ← ones_below_iff hn]
      push Not
      refine exists_congr fun b => and_congr_right fun hb => ?_
      simp [show b < 32 by omega]
    rw [hneg, BitVec.getLsbD_neg, hborrow, BitVec.getLsbD_not, decide_eq_true hk, Bool.true_and, Bool.true_and,
      Bool.not_xor_not]
  · have hle := (rzb_le_iff n).mpr hn
    have hhigh : ¬ k ≤ rzb n - 1 := by omega
    rw [BitVec.getLsbD_of_ge _ _ (by omega), BitVec.getLsbD_of_ge _ _ (by omega), decide_eq_false hhigh]
    rfl

/-- The two flips at k and k + 1 cancel everywhere but at the lowest zero bit. -/
theorem getLsbD_gray_add_one {n : Word} (hn : n ≠ 0xFFFFFFFF#32) (k : Nat) :
    (gray (n + 1#32)).getLsbD k = ((gray n).getLsbD k ^^ decide (k = rzb n - 1)) := by
  have hflip : (decide (k ≤ rzb n - 1) ^^ decide (k + 1 ≤ rzb n - 1)) = decide (k = rzb n - 1) := by
    by_cases h : k = rzb n - 1
    · simp [h]
    · simp [h, show k ≤ rzb n - 1 ↔ k + 1 ≤ rzb n - 1 by omega]
  rw [gray_getLsbD, gray_getLsbD, getLsbD_add_one hn, getLsbD_add_one hn, ← hflip, Bool.xor_assoc, Bool.xor_assoc,
    Bool.xor_left_comm (decide _)]

/-- Settles O37: bit by bit, the codes differ where adding 1 flips bit k and not bit k + 1. -/
theorem grayStepFlipsSelectedBit : Obligations.GrayStepFlipsSelectedBit := by
  intro n hn
  have hle := (rzb_le_iff n).mpr hn
  have hpos := one_le_rzb n
  rw [← BitVec.twoPow_eq]
  refine BitVec.eq_of_getLsbD_eq fun k _ => ?_
  rw [BitVec.getLsbD_xor, getLsbD_gray_add_one hn, BitVec.getLsbD_twoPow,
    decide_eq_true (show rzb n - 1 < 32 by omega), Bool.true_and, decide_eq_decide.mpr (eq_comm (a := k)),
    Bool.xor_comm, ← Bool.xor_assoc, Bool.xor_self, Bool.false_xor]

/-! ## The XOR of selected columns -/

/-- The XOR of the columns b + 1 that `p` selects among the first `m` (the fold of `closedPoint`). -/
def selectedXor (column : Nat → Word) (p : Nat → Bool) (m : Nat) : Word :=
  (List.range m).foldl (fun acc b => if p b then acc ^^^ column (b + 1) else acc) 0#32

theorem selectedXor_succ (column : Nat → Word) (p : Nat → Bool) (m : Nat) :
    selectedXor column p (m + 1) =
      selectedXor column p m ^^^ (if p m then column (m + 1) else 0#32) := by
  rw [selectedXor, List.range_succ, List.foldl_append]
  by_cases h : p m <;> simp [h, selectedXor]

theorem closedPoint_eq (column : Nat → Word) (n : Word) :
    closedPoint column n = selectedXor column (gray n).getLsbD 32 := rfl

theorem selectedXor_congr {f g : Nat → Word} {p : Nat → Bool} {m : Nat}
    (h : ∀ b, b < m → p b = true → f (b + 1) = g (b + 1)) : selectedXor f p m = selectedXor g p m := by
  refine List.foldl_ext _ _ _ fun acc b hb => ?_
  by_cases hp : p b = true
  · rw [h b (List.mem_range.mp hb) hp]
  · simp [hp]

/-- Flipping the choice of one column XORs that column. -/
theorem selectedXor_flip (column : Nat → Word) (p : Nat → Bool) (c m : Nat) :
    selectedXor column (fun b => p b ^^ decide (b = c)) m =
      selectedXor column p m ^^^ (if c < m then column (c + 1) else 0#32) := by
  induction m with
  | zero => simp [selectedXor]
  | succ m ih =>
    rw [selectedXor_succ, selectedXor_succ, ih, BitVec.xor_assoc, BitVec.xor_assoc]
    congr 1
    rcases Nat.lt_trichotomy c m with h | rfl | h
    · simp [h, show c < m + 1 by omega, show ¬ m = c by omega, BitVec.xor_comm]
    · cases p c <;> simp
    · simp [show ¬ c < m by omega, show ¬ c < m + 1 by omega, show ¬ m = c by omega]

/-! ## The closed form -/

theorem closedPoint_congr {f g : Nat → Word} {n : Word}
    (h : ∀ b, b < 32 → (gray n).getLsbD b = true → f (b + 1) = g (b + 1)) : closedPoint f n = closedPoint g n :=
  selectedXor_congr h

/-- One more draw selects one more column, or one less: the one the selector names. -/
theorem closedPoint_add_one (column : Nat → Word) {n : Word} (hn : n ≠ 0xFFFFFFFF#32) :
    closedPoint column (n + 1#32) = closedPoint column n ^^^ column (rzb n) := by
  have hle := (rzb_le_iff n).mpr hn
  have hpos := one_le_rzb n
  rw [closedPoint_eq, closedPoint_eq, funext (getLsbD_gray_add_one hn), selectedXor_flip,
    if_pos (by omega), Nat.sub_add_cancel hpos]

theorem closedForm_of_sameEngine {s t : State} (h : SameEngine s t) (hs : ClosedForm s) : ClosedForm t := by
  intro j hj
  rw [h.readX_eq, funext (h.readV_eq j), h.n]
  exact hs j (h.dim ▸ hj)

theorem closedForm_advance {s : State} (hs : ClosedForm s) (hn : s.n ≠ 0xFFFFFFFF#32) : ClosedForm s.advance := by
  intro j hj
  calc s.advance.readX j = s.readX j ^^^ s.readV j (rzb s.n) := s.advance_readX hj
    _ = closedPoint (s.readV j) s.n ^^^ s.readV j (rzb s.n) := by rw [hs j hj]
    _ = closedPoint (s.readV j) (s.n + 1#32) := (closedPoint_add_one _ hn).symm

theorem closedForm_of_dim_zero {s : State} (h : s.dim = 0#16) : ClosedForm s := by
  intro j hj
  simp [h] at hj

theorem closedForm_kept : KeptByOperations ClosedForm where
  frame h _ _ := closedForm_of_sameEngine h
  construct {s _} _ _ _ := fun _ hj => (s.construct_readX hj).trans (closedPoint_zero _).symm
  advance _ hn hs := closedForm_advance hs hn
  exhaust _ _ hs := hs
  release _ := closedForm_of_dim_zero rfl
  hardwareReset _ := closedForm_of_dim_zero rfl

/-- Settles O57: a DRAW XORs the very column by which gray(N + 1) and gray(N) differ; a CFG starts from gray(0). -/
theorem stepKeepsClosedForm : Obligations.StepKeepsClosedForm := fun _ _ => closedForm_kept.step

end Sys2Proof.Machine
end

section
/-! The point after m draws (41_draw.md R106, R109, R110), and row independence in the builder (40_construct.md R86). -/

namespace Sys2Proof.Machine

/-! ## A row depends on its own table entry -/

theorem buildRow_congr {c c' : Config} {j : Nat} (he : romEntry c j = romEntry c' j)
    (h0 : j = 0 → c.row0Col32 = c'.row0Col32) : buildRow c j = buildRow c' j := by
  by_cases hj : j = 0
  · rw [hj, buildRow_zero, buildRow_zero, rowZero, rowZero, h0 hj]
  · rw [buildRow, buildRow, if_neg hj, if_neg hj, he]

/-- Settles O29: BUILD maps one row function over an initial segment. -/
theorem builderRowsIndependentOfDimension : Obligations.BuilderRowsIndependentOfDimension := by
  refine ⟨fun c d d' hd => ?_, fun c c' j he h0 => buildRow_congr he h0⟩
  rw [build, build, ← List.map_take, List.take_range, Nat.min_eq_left hd]

/-! ## The closed form over the builder's columns -/

/-- Column i of row j of the builder's matrix. -/
def builderColumn (c : Config) (j i : Nat) : Word := (buildRow c j).getD (i - 1) 0#32

theorem justConstructed_closedForm {c : Config} {d : BitVec 16} {s : State} (h : JustConstructed c d s) :
    ClosedForm s := by
  obtain ⟨-, -, hdim, hn, -, hx, -, -⟩ := h.facts
  intro j hj
  rw [hn, closedPoint_zero]
  exact hx j (hdim ▸ hj)

theorem draws_closedForm {s t : State} {m : Nat} (h : Draws s m t) (hs : ClosedForm s) : ClosedForm t := by
  induction h with
  | none => exact hs
  | more _ _ _ he ih => exact closedForm_kept.exec ih he

theorem readX_of_draws {c : Config} {d : BitVec 16} {s t : State} {m j : Nat} (hc : JustConstructed c d s)
    (h : Draws s m t) (hj : j < d.toNat) : t.readX j = closedPoint (builderColumn c j) (BitVec.ofNat 32 m) := by
  obtain ⟨hcfg, hready, hdim, -, hv, -, hmax, -⟩ := hc.facts
  obtain ⟨htcfg, -, htdim, htv, -, -⟩ := h.facts hready
  rw [draws_closedForm h (justConstructed_closedForm hc) j (by rwa [htdim, hdim]), (draws_counter hc h).2]
  refine closedPoint_congr fun b hb _ => ?_
  subst hcfg
  have hcell := readV_of_matrix (s := t) (d := d.toNat) (htcfg ▸ htv.trans hv) (by rwa [htcfg]) hj
    (show 1 ≤ b + 1 by omega) (by omega)
  rw [builderColumn, List.getD_eq_getElem?_getD, ← htcfg, hcell, Option.getD_some]

/-- Settles O38: the closed form holds after CFG and every DRAW keeps it; V is BUILD(d) throughout. -/
theorem pointHasClosedForm : Obligations.PointHasClosedForm := by
  intro c d s t m hc h
  obtain ⟨-, hready, -, hn, -, -, -, -⟩ := hc.facts
  obtain ⟨-, -, -, -, -, hcount⟩ := h.facts hready
  refine ⟨?_, fun j hj => readX_of_draws hc h hj⟩
  rw [hcount, hn, BitVec.toNat_zero, Nat.zero_add]

/-- Settles O40: both points have the same closed form, in which the dimensionality does not occur. -/
theorem pointsArePrefixConsistent : Obligations.PointsArePrefixConsistent := by
  intro c d d' s s' t t' m hd hc hc' h h' j hj
  rw [readX_of_draws hc h hj, readX_of_draws hc' h' (hj.trans_le hd)]

/-! ## Column 32 -/

theorem rzb_eq_32_iff {n : Word} (hn : n ≠ 0xFFFFFFFF#32) : rzb n = 32 ↔ n = 0x7FFFFFFF#32 := by
  constructor
  · intro h
    refine BitVec.eq_of_getLsbD_eq fun b hb => ?_
    by_cases h31 : b = 31
    · have hzero := getLsbD_rzb_of_le (w := n) (by omega)
      rw [h31]
      simpa [h] using hzero
    · have hones : ∀ b : Fin 31, (0x7FFFFFFF#32).getLsbD b = true := by decide
      exact (getLsbD_of_lt_rzb (by omega)).trans (hones ⟨b, by omega⟩).symm
  · rintro rfl
    decide

/-- Below draw 2^31 the Gray code selects none but columns 1 to 31. -/
theorem getLsbD_gray_31 {m : Nat} (hm : m < 2 ^ 31) : (gray (BitVec.ofNat 32 m)).getLsbD 31 = false := by
  have h31 : m.testBit 31 = false := Nat.testBit_lt_two_pow hm
  rw [gray_getLsbD, BitVec.getLsbD_ofNat, BitVec.getLsbD_of_ge _ _ (Nat.le_refl 32), h31, Bool.and_false,
    Bool.xor_false]

theorem lt_31_of_gray {m b : Nat} (hm : m < 2 ^ 31) (hb : b < 32) (h : (gray (BitVec.ofNat 32 m)).getLsbD b = true) :
    b < 31 := by
  by_contra hge
  obtain rfl : b = 31 := by omega
  rw [getLsbD_gray_31 hm] at h
  exact Bool.false_ne_true h

theorem builderColumn_rowZero (c : Config) {b : Nat} (hb : b < 31) :
    builderColumn c 0 (b + 1) = 1#32 <<< (32 - (b + 1)) := by
  rw [builderColumn, buildRow_zero, List.getD_eq_getElem?_getD, rowZero_power c (by omega) (by omega),
    Option.getD_some]

/-- Settles O39: rows above 0 do not hold ROW0_COL32, and in row 0 it is column 32, which gray(m) selects for
m >= 2^31 alone. -/
theorem pointsIndependentOfRow0Col32 : Obligations.PointsIndependentOfRow0Col32 := by
  refine ⟨fun n hn => rzb_eq_32_iff hn, fun c c' d s s' t t' m _ hdnt hc hc' h h' j hj hmj => ?_⟩
  rw [readX_of_draws hc h hj, readX_of_draws hc' h' hj]
  by_cases h0 : j = 0
  · subst h0
    have hm : m < 2 ^ 31 := by omega
    refine closedPoint_congr fun b hb hsel => ?_
    have hb31 := lt_31_of_gray hm hb hsel
    rw [builderColumn_rowZero c hb31, builderColumn_rowZero c' hb31]
  · have hrow : buildRow c' j = buildRow c j := buildRow_congr (by simp only [romEntry, hdnt]) (absurd · h0)
    rw [show builderColumn c' j = builderColumn c j from funext fun i => congrArg (·.getD (i - 1) 0#32) hrow]

/-! ## Dimension 0 -/

/-- The columns `1 << (32 - i)` have one bit each, from the top down. -/
theorem getLsbD_selectedXor_powers (p : Nat → Bool) {m k : Nat} (hm : m ≤ 32) (hk : k < 32) :
    (selectedXor (fun i => 1#32 <<< (32 - i)) p m).getLsbD k = (decide (31 - k < m) && p (31 - k)) := by
  induction m with
  | zero => simp [selectedXor]
  | succ m ih =>
    rw [selectedXor_succ, BitVec.getLsbD_xor, ih (by omega), ← BitVec.twoPow_eq]
    by_cases hkm : 31 - k = m
    · subst hkm
      cases p (31 - k) <;> simp [show 31 - (31 - k) = k by omega, hk]
    · have hother : ¬ 31 - m = k := by omega
      cases p m <;> simp [BitVec.getLsbD_twoPow, hother, show 31 - k < m + 1 ↔ 31 - k < m by omega]

theorem getLsbD_readX_zero {c : Config} {d : BitVec 16} {s t : State} {m k : Nat} (hc : JustConstructed c d s)
    (h : Draws s m t) (hm : m < 2 ^ 31) (hk : k < 32) :
    (t.readX 0).getLsbD k = (gray (BitVec.ofNat 32 m)).getLsbD (31 - k) := by
  obtain ⟨-, -, -, -, -, -, -, hd⟩ := hc.facts
  have hcolumns : closedPoint (builderColumn c 0) (BitVec.ofNat 32 m) =
      closedPoint (fun i => 1#32 <<< (32 - i)) (BitVec.ofNat 32 m) :=
    closedPoint_congr fun b hb hsel => builderColumn_rowZero c (lt_31_of_gray hm hb hsel)
  rw [readX_of_draws hc h (by bv_omega), hcolumns, closedPoint_eq, getLsbD_selectedXor_powers _ (Nat.le_refl 32) hk,
    decide_eq_true (by omega), Bool.true_and]

/-- Settles O41: column b + 1 of row 0 is bit 31 - b alone, so the XOR of the selected columns reverses the code. -/
theorem dimensionZeroIsBitReversedGray : Obligations.DimensionZeroIsBitReversedGray := by
  intro c d s t m hc h hm
  refine ⟨fun b hb => ?_, ?_⟩
  · rw [getLsbD_readX_zero hc h hm (by omega), Nat.sub_sub_self (by omega)]
  · rw [getLsbD_readX_zero hc h hm (by omega), getLsbD_gray_31 hm]

end Sys2Proof.Machine
end

section
/-! The lifecycle, storage and history invariants (10_state.md R34): each operation keeps them, and reset has them. -/

namespace Sys2Proof.Machine

/-! ## Lifecycle -/

theorem lifecycle_of_sameEngine {s t : State} (h : SameEngine s t) (hcfg : t.cfg = s.cfg)
    (herr : t.lastErr = s.lastErr ∨ ∃ code : StatusCode, t.lastErr = code.toByte) (hs : Lifecycle s) : Lifecycle t where
  emptyIffDimZero := by rw [h.state, h.dim]; exact hs.emptyIffDimZero
  dimInRange := by rw [h.state, h.dim, hcfg]; exact hs.dimInRange
  exhaustedAtLimit := by rw [h.state, h.n]; exact hs.exhaustedAtLimit
  emptyCounter := by rw [h.state, h.n]; exact hs.emptyCounter
  errCode := by
    obtain heq | ⟨code, heq⟩ := herr <;> rw [heq]
    · exact hs.errCode
    · exact code.toByte_le

/-- An engine released or reset. -/
theorem lifecycle_of_empty {s : State} (hstate : s.state = .empty) (hdim : s.dim = 0#16) (hn : s.n = 0#32)
    (herr : s.lastErr.toNat ≤ 5) : Lifecycle s where
  emptyIffDimZero := ⟨fun _ => hdim, fun _ => hstate⟩
  dimInRange hne := absurd hstate hne
  exhaustedAtLimit hex := by simp [hstate] at hex
  emptyCounter _ := hn
  errCode := herr

theorem lifecycle_construct {s : State} {d : BitVec 16} (h0 : d ≠ 0#16) (hm : d.toNat ≤ s.cfg.maxDim)
    (hs : Lifecycle s) : Lifecycle (s.construct d) where
  emptyIffDimZero := by simp [h0]
  dimInRange _ := ⟨by rw [State.construct_dim]; bv_omega, hm⟩
  exhaustedAtLimit := by simp
  emptyCounter _ := rfl
  errCode := hs.errCode

theorem lifecycle_advance {s : State} (hr : s.state = .ready) (hs : Lifecycle s) : Lifecycle s.advance where
  emptyIffDimZero := hs.emptyIffDimZero
  dimInRange := hs.dimInRange
  exhaustedAtLimit := by simp [hr]
  emptyCounter := by simp [hr]
  errCode := hs.errCode

theorem lifecycle_exhaust {s : State} (hr : s.state = .ready) (hn : s.n = 0xFFFFFFFF#32) (hs : Lifecycle s) :
    Lifecycle s.exhaust where
  emptyIffDimZero := by
    have hdim : s.dim ≠ 0#16 := fun h => by simp [hs.emptyIffDimZero.mpr h] at hr
    simp [hdim]
  dimInRange _ := hs.dimInRange (by simp [hr])
  exhaustedAtLimit _ := hn
  emptyCounter := by simp
  errCode := hs.errCode

theorem lifecycle_kept : KeptByOperations Lifecycle where
  frame := lifecycle_of_sameEngine
  construct := lifecycle_construct
  advance hr _ := lifecycle_advance hr
  exhaust := lifecycle_exhaust
  release hs := lifecycle_of_empty rfl rfl rfl hs.errCode
  hardwareReset _ := lifecycle_of_empty rfl rfl rfl (Nat.zero_le 5)

/-- Settles O54: CFG checks d against MAX_DIM, and only the DRAW at N = 0xFFFFFFFF makes the engine EXHAUSTED. -/
theorem stepKeepsLifecycle : Obligations.StepKeepsLifecycle := fun _ _ => lifecycle_kept.step

/-! ## Storage -/

theorem storage_of_empty {s : State} (hdim : s.dim = 0#16) (hv : s.v = []) (hx : s.x = []) (hh : s.hist = []) :
    Storage s :=
  ⟨by simp [Memory.wf_iff, hdim, hv, hx, hh], by simp [hdim, hv, build]⟩

theorem storage_kept : KeptByOperations Storage where
  frame h hcfg _ hs := ⟨(Memory.wf_congr h.dim h.v h.x h.hist).trans hs.wf, by rw [h.v, h.dim, hcfg]; exact hs.matrix⟩
  construct _ hm _ := ⟨Memory.wf_construct _ _ hm, rfl⟩
  advance _ _ hs := ⟨Memory.wf_advance hs.wf, hs.matrix⟩
  exhaust _ _ hs := ⟨hs.wf, hs.matrix⟩
  release _ := storage_of_empty rfl rfl rfl rfl
  hardwareReset _ := storage_of_empty rfl rfl rfl rfl

/-- Settles O55: CFG alone writes V, with BUILD of the DIM it sets. -/
theorem stepKeepsStorage : Obligations.StepKeepsStorage := fun _ _ => storage_kept.step

/-! ## History -/

theorem history_of_dim_zero {s : State} (h : s.dim = 0#16) : History s := by
  intro j hj
  simp [h] at hj

theorem history_construct (s : State) (d : BitVec 16) : History (s.construct d) := by
  intro j (hj : j < d.toNat)
  refine ⟨[0#32], List.getElem?_replicate_of_lt hj, rfl, ?_⟩
  rw [s.construct_readX hj]
  rfl

theorem history_advance {s : State} (hn : s.n ≠ 0xFFFFFFFF#32) (hs : History s) : History s.advance := by
  intro j hj
  obtain ⟨h, hh, hlen, -⟩ := hs j hj
  refine ⟨h ++ [s.newWord j], s.advance_hist_getElem? hj hh, ?_, ?_⟩
  · rw [List.length_append, hlen, State.advance_n, toNat_add_one_of_ne_limit hn, List.length_singleton]
  · rw [List.getLast?_concat, s.advance_readX hj]

theorem history_of_sameEngine {s t : State} (h : SameEngine s t) (hs : History s) : History t := by
  intro j hj
  rw [h.readX_eq, h.hist, h.n]
  exact hs j (h.dim ▸ hj)

theorem history_kept : KeptByOperations History where
  frame h _ _ := history_of_sameEngine h
  construct _ _ _ := history_construct _ _
  advance _ hn := history_advance hn
  exhaust _ _ hs := hs
  release _ := history_of_dim_zero rfl
  hardwareReset _ := history_of_dim_zero rfl

/-- Settles O56: DRAW appends to HIST[j] the word it writes to X[j], and its N + 1 does not wrap. -/
theorem stepKeepsHistory : Obligations.StepKeepsHistory := fun _ _ => history_kept.step

/-! ## Reset -/

/-- Settles O53: after reset there is no engine, so DIM is 0 and nothing is listed. -/
theorem resetMeetsInvariant : Obligations.ResetMeetsInvariant where
  lifecycle := lifecycle_of_empty rfl rfl rfl (Nat.zero_le 5)
  storage := storage_of_empty rfl rfl rfl rfl
  history := history_of_dim_zero rfl
  closedForm := closedForm_of_dim_zero rfl

end Sys2Proof.Machine
end

section
/-! Steps and ports (30_encoding.md R75, R76, 70_reset_and_hazards.md R160, R164): what each host input brings, and
what a step leaves of the configuration, the position k and the response stream. -/

namespace Sys2Proof.Machine

/-! ## The step of each host input -/

theorem presentRun_of_word {s : State} {w : Word} (hw : s.program[s.k]? = some w) :
    s.presentRun = .command w s.drain.accept := by
  simp only [State.presentRun, State.offered, hw]

theorem step_drains {s : State} {w : Word} (hi : s.inputs = []) (hw : s.program[s.k]? = some w) :
    step s = exec (decode w) s.drain.accept := by
  simp only [step, State.present, hi, presentRun_of_word hw]

theorem step_run {s : State} {w : Word} {later : List HostInput} (hi : s.inputs = .run :: later)
    (hw : s.program[s.k]? = some w) : step s = exec (decode w) s.nextInput.drain.accept := by
  simp only [step, State.present, hi, presentRun_of_word (s := s.nextInput) hw]

theorem nextInput_eq {s : State} {input : HostInput} {later : List HostInput} (hi : s.inputs = input :: later) :
    s.nextInput = { s with inputs := later } := by
  rw [State.nextInput, hi, List.tail_cons]

/-- Settles O17: draining and accepting are the two changes before `exec`, and `withFetchWord` puts its word at k. -/
theorem stepRunsDecodedCommand : Obligations.StepRunsDecodedCommand := by
  refine ⟨fun s w hi hw => step_drains hi hw, fun s w later hi hw => ?_, fun s nbits w => ?_⟩
  · rw [step_run hi hw, nextInput_eq hi]
    rfl
  · exact step_drains (s := s.withFetchWord nbits w) rfl (State.programWith_at _ _ _)

/-! ## The port -/

theorem presentOffer_of_pending {s : State} (hr : s.rsp ≠ []) : s.presentOffer = .quiet s := by
  rw [State.presentOffer]
  split
  · next h => exact absurd h hr
  · rfl

theorem step_offer_pending {s : State} {later : List HostInput} (hi : s.inputs = .offer :: later) (hr : s.rsp ≠ []) :
    step s = .next { s with inputs := later } := by
  rw [← nextInput_eq hi]
  simp only [step, State.present, hi, presentOffer_of_pending (s := s.nextInput) hr]

theorem step_offer_idle {s : State} {w : Word} {later : List HostInput} (hi : s.inputs = .offer :: later)
    (hr : s.rsp = []) (hw : s.program[s.k]? = some w) :
    step s = exec (decode w) { s with inputs := later, k := s.k + 1 } := by
  simp only [step, State.present, hi, State.presentOffer, State.nextInput_rsp, hr,
    presentRun_of_word (s := s.nextInput) hw]
  simp [nextInput_eq hi, State.drain, State.accept, hr]

/-- Settles O20: an offer is a run of the command when nothing is pending, and else only the input is used up. -/
theorem commandWaitsForDrainedResponse : Obligations.CommandWaitsForDrainedResponse :=
  ⟨fun s => by simp [portOutputs], fun _ _ hi hr => step_offer_pending hi hr,
    fun _ _ _ hi hr hw => step_offer_idle hi hr hw⟩

/-- Settles O22: `takeWord` moves the head of the pending words, which is also what the port shows. -/
theorem hostTakesWordsInOrder : Obligations.HostTakesWordsInOrder := by
  intro s w rest later hr hi
  refine ⟨by simp [portOutputs, hr], by simp [portOutputs, hr], by simp [portOutputs, hr], ?_⟩
  simp only [step, State.present, hi, nextInput_eq hi, State.takeWord, hr]

/-- Settles O25: both reset inputs end in `hardwareReset`, the one in flight after the drain and the accepted word. -/
theorem hardwareResetAbandonsAndClears : Obligations.HardwareResetAbandonsAndClears := by
  refine ⟨fun s later hi => ⟨s.nextInput.hardwareReset, ?_, rfl, rfl, rfl, rfl, rfl, rfl, rfl, rfl, rfl, rfl, ?_⟩,
    fun s later w hi hw => ⟨s.nextInput.drain.accept.hardwareReset, ?_, rfl, rfl, rfl, rfl, rfl, rfl, rfl, rfl, rfl,
      rfl, ?_⟩, fun s => ⟨rfl, rfl⟩⟩
  · simp only [step, State.present, hi]
  · simp [hi]
  · simp [step, State.present, hi, State.presentResetInFlight, State.offered, hw]
  · simp [hi]

/-! ## When a step stops -/

theorem presentRun_ne_stalled (s : State) : s.presentRun ≠ .stalled := by
  rw [State.presentRun]
  split <;> simp

theorem presentOffer_ne_stalled (s : State) : s.presentOffer ≠ .stalled := by
  rw [State.presentOffer]
  split
  · exact presentRun_ne_stalled s
  · simp

theorem presentResetInFlight_ne_stalled (s : State) : s.presentResetInFlight ≠ .stalled := by
  rw [State.presentResetInFlight]
  split <;> simp

theorem present_stalled_iff (s : State) :
    s.present = .stalled ↔ s.inputs.head? = some .neverDrain ∧ s.rsp ≠ [] := by
  cases hi : s.inputs with
  | nil => simp [State.present, hi, presentRun_ne_stalled]
  | cons input later =>
    cases input with
    | run => simp [State.present, hi, presentRun_ne_stalled]
    | offer => simp [State.present, hi, presentOffer_ne_stalled]
    | take | wait | reset => simp [State.present, hi]
    | resetInFlight => simp [State.present, hi, presentResetInFlight_ne_stalled]
    | neverDrain => cases hr : s.rsp <;> simp [State.present, hi, hr, presentRun_ne_stalled]

/-- A step stops with the stalled port, or answers a next state, for every command completes. -/
theorem step_completes (s : State) :
    (s.present = .stalled ∧ step s = .fault .portStalled) ∨ (s.present ≠ .stalled ∧ ∃ t, step s = .next t) := by
  rw [step]
  split
  · next hp => exact .inr ⟨by simp [hp], _, rfl⟩
  · next w s' hp => exact .inr ⟨by simp [hp], exec_completes (decode w) s'⟩
  · next hp => exact .inl ⟨hp, rfl⟩

/-- Settles O19: `present` is stalled for the input `neverDrain` with a word pending alone. -/
theorem stepStopsOnlyAtStalledPort : Obligations.StepStopsOnlyAtStalledPort := by
  intro s
  rw [← present_stalled_iff, State.Safe]
  obtain ⟨hp, hstep⟩ | ⟨hp, t, hstep⟩ := step_completes s
  · simp [hp, hstep]
  · simp [hp, hstep]

/-- Settles O16: every arm of `exec` answers `.next`. -/
theorem everyCommandCompletes : Obligations.EveryCommandCompletes := exec_completes

/-! ## What a step leaves -/

/-- Using up an input changes the list of inputs alone. -/
theorem usedInput_frame {s s₀ : State} (h : s₀ = s ∨ s₀ = s.nextInput) :
    SameEngine s s₀ ∧ s₀.lastErr = s.lastErr ∧ s₀.cfg = s.cfg ∧ s₀.program = s.program ∧ s₀.k = s.k ∧
      s₀.rsp = s.rsp ∧ s₀.taken = s.taken := by
  obtain rfl | rfl := h <;> exact ⟨⟨rfl, rfl, rfl, rfl, rfl, rfl, rfl⟩, rfl, rfl, rfl, rfl, rfl, rfl⟩

/-- Every step keeps the configuration and the list of commands, and moves k by at most one, over a word. -/
theorem step_outside {s t : State} (h : step s = .next t) :
    t.cfg = s.cfg ∧ t.program = s.program ∧ (t.k = s.k ∨ ((∃ w, s.offered = some w) ∧ t.k = s.k + 1)) := by
  obtain ⟨s₀, h0, hc⟩ := step_cases h
  obtain ⟨-, -, hcfg, hprogram, hk, -, -⟩ := usedInput_frame h0
  obtain rfl | rfl | ⟨-, rfl⟩ | ⟨-, rfl | ⟨hw, rfl⟩⟩ | ⟨w, hw, hexec, -⟩ := hc
  · exact ⟨hcfg, hprogram, .inl hk⟩
  · simp [hcfg, hprogram, hk]
  · exact ⟨hcfg, hprogram, .inl hk⟩
  · exact ⟨hcfg, hprogram, .inl hk⟩
  · exact ⟨hcfg, hprogram, .inr ⟨hw, congrArg (· + 1) hk⟩⟩
  · obtain ⟨htcfg, htprogram, htk, -, -⟩ := exec_outside hexec
    exact ⟨htcfg.trans hcfg, htprogram.trans hprogram, .inr ⟨⟨w, hw⟩, htk.trans (congrArg (· + 1) hk)⟩⟩

/-- Settles O8: neither the host's inputs, nor reset, nor any command writes them. -/
theorem configurationIsConstant : Obligations.ConfigurationIsConstant := by
  intro s t h
  obtain ⟨hcfg, hprogram, -⟩ := step_outside h
  exact ⟨hcfg, hprogram⟩

theorem step_at_end {s : State} (hi : s.inputs = []) (hend : s.program.length ≤ s.k) : step s = .next s := by
  have hnone : s.offered = none := List.getElem?_eq_none hend
  simp only [step, State.present, hi, State.presentRun, hnone]

/-- Settles O18: a step accepts one command at most, and only where the list has a word. -/
theorem commandMovesIndexByOne : Obligations.CommandMovesIndexByOne := by
  refine ⟨fun s w hi hw => ?_, fun s hi hend => step_at_end hi hend, fun s t h => ?_⟩
  · obtain ⟨t, ht⟩ := exec_completes (decode w) s.drain.accept
    obtain ⟨-, hprogram, hk, -, -⟩ := exec_outside ht
    exact ⟨t, (step_drains hi hw).trans ht, hk, hprogram⟩
  · obtain ⟨-, -, hk⟩ := step_outside h
    refine hk.imp_right fun ⟨⟨w, hw⟩, hk⟩ => ⟨?_, hk⟩
    exact (List.getElem?_eq_some_iff.mp hw).1

/-! ## The response stream -/

/-- Without reset a step leaves the engine, LAST_ERR and the words taken and pending, or executes the word at k once
the earlier response is taken. -/
theorem step_quiet_or_command {s t : State} (h : step s = .next t) (hr : s.inputs.head? ≠ some .reset)
    (hf : s.inputs.head? ≠ some .resetInFlight) :
    (t.k = s.k ∧ SameEngine s t ∧ t.lastErr = s.lastErr ∧ t.taken ++ t.rsp = s.taken ++ s.rsp) ∨
    ∃ w s₁, s.program[s.k]? = some w ∧ exec (decode w) s₁ = .next t ∧ s₁.k = s.k + 1 ∧ s₁.rsp = [] ∧
      s₁.taken = s.taken ++ s.rsp := by
  obtain ⟨s₀, h0, hc⟩ := step_cases h
  obtain ⟨hengine, herr, -, -, hk, hrsp, htaken⟩ := usedInput_frame h0
  obtain rfl | rfl | ⟨hreset, -⟩ | ⟨hflight, -⟩ | ⟨w, hw, hexec, -⟩ := hc
  · exact .inl ⟨hk, hengine, herr, by rw [hrsp, htaken]⟩
  · refine .inl ⟨s₀.takeWord_k.trans hk, hengine.trans (takeWord_sameEngine s₀), s₀.takeWord_lastErr.trans herr, ?_⟩
    rw [State.takeWord_taken, State.takeWord_rsp, List.append_assoc, ← List.drop_one, List.take_append_drop, hrsp,
      htaken]
  · exact absurd hreset hr
  · exact absurd hflight hf
  · exact .inr ⟨w, s₀.drain.accept, hw, hexec, congrArg (· + 1) hk, rfl, by simp [htaken, hrsp]⟩

/-- Settles O23: with k unmoved no command was executed. -/
theorem onlyCommandsAndResetChangeState : Obligations.OnlyCommandsAndResetChangeState := by
  intro s t hr hf h hk
  obtain ⟨-, hquiet⟩ | ⟨w, s₁, -, hexec, hk₁, -, -⟩ := step_quiet_or_command h hr hf
  · exact hquiet
  · obtain ⟨-, -, htk, -, -⟩ := exec_outside hexec
    omega

/-- Settles O21: a command adds its one response behind the words already taken. -/
theorem responseStreamOnlyGrows : Obligations.ResponseStreamOnlyGrows := by
  intro s t h hr hf
  obtain ⟨hk, -, -, hstream⟩ | ⟨w, s₁, hw, hexec, hk₁, hrsp₁, htaken₁⟩ := step_quiet_or_command h hr hf
  · exact .inl ⟨hk, hstream⟩
  · obtain ⟨-, -, htk, -, httaken⟩ := exec_outside hexec
    obtain ⟨t', code, data, ht', hrsp, -, hlt⟩ := exec_responds (decode w) s₁
    obtain rfl : t' = t := Host.Outcome.next.inj (ht'.symm.trans hexec)
    refine .inr ⟨w, respWord data.length (decode w).opcode code, data, hw, htk.trans hk₁, ?_, 
      respLen_respWord _ _ _ hlt, ?_⟩
    · rw [httaken, htaken₁, hrsp, hrsp₁, List.nil_append]
    · rw [respOp_respWord, opcode_decode]

end Sys2Proof.Machine
end

section
/-! Decoding and encoding are inverse (30_encoding.md R61 to R70): the words of the commands, the opcode table's match
and mask columns, the byte bridge, and the assembler's table. -/

namespace Sys2Proof

/-! ## Which bits an illegal word has -/

theorem fieldRest_and_eq_zero_iff (w m : Word) : fieldRest w &&& fieldRest m = 0#28 ↔
    fieldI w &&& fieldI m = 0#6 ∧ fieldZ w &&& fieldZ m = 0#6 ∧ fieldJ w &&& fieldJ m = 0#16 := by
  simpa only [fieldRest, fieldI, fieldZ, fieldJ, BitVec.extractLsb'_and] using fieldRest_eq_zero_iff (w &&& m)

/-- The bits outside an opcode's fields used are fields: Z, I but in RDV, J but in CFG, RDX and RDV. -/
theorem unusedBits_eq_zero_iff (w : Word) : fieldRest w &&& ~~~(usedBits (fieldOp w)) = 0#28 ↔
    fieldZ w = 0#6 ∧ (fieldOp w ≠ 0x4#4 → fieldI w = 0#6) ∧
      (fieldOp w ≠ 0x1#4 → fieldOp w ≠ 0x3#4 → fieldOp w ≠ 0x4#4 → fieldJ w = 0#16) := by
  by_cases hJ : fieldOp w = 0x1#4 ∨ fieldOp w = 0x3#4
  · have hmask : ~~~(usedBits (fieldOp w)) = fieldRest 0x0FFF0000#32 := by rw [usedBits, if_pos hJ]; decide
    have hI : fieldI 0x0FFF0000#32 = BitVec.allOnes 6 := by decide
    have hZ : fieldZ 0x0FFF0000#32 = BitVec.allOnes 6 := by decide
    have hJ0 : fieldJ 0x0FFF0000#32 = 0#16 := by decide
    rw [hmask, fieldRest_and_eq_zero_iff, hI, hZ, hJ0, BitVec.and_allOnes, BitVec.and_allOnes, BitVec.and_zero]
    obtain hop | hop := hJ <;> simp [hop, and_comm]
  · by_cases hJI : fieldOp w = 0x4#4
    · have hmask : ~~~(usedBits (fieldOp w)) = fieldRest 0x003F0000#32 := by
        rw [usedBits, if_neg hJ, if_pos hJI]; decide
      have hI : fieldI 0x003F0000#32 = 0#6 := by decide
      have hZ : fieldZ 0x003F0000#32 = BitVec.allOnes 6 := by decide
      have hJ0 : fieldJ 0x003F0000#32 = 0#16 := by decide
      rw [hmask, fieldRest_and_eq_zero_iff, hI, hZ, hJ0, BitVec.and_allOnes, BitVec.and_zero, BitVec.and_zero]
      simp [hJI]
    · obtain ⟨h1, h3⟩ := not_or.mp hJ
      rw [usedBits, if_neg hJ, if_neg hJI, BitVec.not_zero, BitVec.and_allOnes, fieldRest_eq_zero_iff]
      simp [h1, h3, hJI, and_left_comm]

theorem wellFormed_illegal_iff (w : Word) : (Instr.illegal (fieldOp w) (fieldRest w)).wellFormed = true ↔
    (8 ≤ (fieldOp w).toNat ∨ fieldZ w ≠ 0#6 ∨ (fieldOp w ≠ 0x4#4 ∧ fieldI w ≠ 0#6) ∨
      (fieldOp w ≠ 0x1#4 ∧ fieldOp w ≠ 0x3#4 ∧ fieldOp w ≠ 0x4#4 ∧ fieldJ w ≠ 0#16)) := by
  rw [Instr.wellFormed, Bool.or_eq_true, reservedOp, decide_eq_true_eq, decide_eq_true_eq, Ne, unusedBits_eq_zero_iff]
  tauto

/-! ## Decoding an encoded command -/

theorem decode_of_op1 {w : Word} (hop : fieldOp w = 0x1#4) (hi : fieldI w = 0#6) (hz : fieldZ w = 0#6) :
    decode w = .cfg (fieldJ w) := by
  simp [decode, hop, hi, hz]

theorem decode_encode {i : Instr} (h : i.wellFormed = true) : decode (encode i) = i := by
  cases i with
  | nop | draw | rdn | stat | rel => rfl
  | cfg d =>
    rw [encode, decode_of_op1 (fieldOp_wordOfFields _ _ _ _) (fieldI_wordOfFields _ _ _ _) (fieldZ_wordOfFields _ _ _ _),
      fieldJ_wordOfFields]
  | rdx j =>
    rw [encode, decode_of_op3 (fieldOp_wordOfFields _ _ _ _) (fieldI_wordOfFields _ _ _ _) (fieldZ_wordOfFields _ _ _ _),
      fieldJ_wordOfFields]
  | rdv j i =>
    rw [encode, decode_of_op4 (fieldOp_wordOfFields _ _ _ _) (fieldZ_wordOfFields _ _ _ _), fieldJ_wordOfFields,
      fieldI_wordOfFields]
  | illegal op rest =>
    have hop := fieldOp_wordOfOpRest op rest
    have hrest := fieldRest_wordOfOpRest op rest
    rw [encode, decode_eq_illegal ((wellFormed_illegal_iff _).mp (by rwa [hop, hrest])), hop, hrest]

/-- Settles O1: the fields come back from the word, and a well-formed illegal word meets no command's condition. -/
theorem decodeOfEncodeIsIdentity : Obligations.DecodeOfEncodeIsIdentity := fun _ h => decode_encode h

/-! ## Encoding a decoded word -/

theorem wordOfFields_of_noOperand {w : Word} {op : BitVec 4} (h : fieldOp w = op ∧ fieldRest w = 0#28) :
    wordOfFields op 0#6 0#6 0#16 = w := by
  obtain ⟨rfl, hrest⟩ := h
  obtain ⟨hi, hz, hj⟩ := (fieldRest_eq_zero_iff w).mp hrest
  simpa only [hi, hz, hj] using wordOfFields_fields w

theorem wordOfFields_of_operandJ {w : Word} {op : BitVec 4} (h : fieldOp w = op ∧ fieldI w = 0#6 ∧ fieldZ w = 0#6) :
    wordOfFields op 0#6 0#6 (fieldJ w) = w := by
  obtain ⟨rfl, hi, hz⟩ := h
  simpa only [hi, hz] using wordOfFields_fields w

theorem wordOfFields_of_operandsJI {w : Word} {op : BitVec 4} (h : fieldOp w = op ∧ fieldZ w = 0#6) :
    wordOfFields op (fieldI w) 0#6 (fieldJ w) = w := by
  obtain ⟨rfl, hz⟩ := h
  simpa only [hz] using wordOfFields_fields w

theorem encode_decode (w : Word) : encode (decode w) = w := by
  unfold decode
  split_ifs with hnop hcfg hdraw hrdx hrdv hrdn hstat hrel
  · exact wordOfFields_of_noOperand hnop
  · exact wordOfFields_of_operandJ hcfg
  · exact wordOfFields_of_noOperand hdraw
  · exact wordOfFields_of_operandJ hrdx
  · exact wordOfFields_of_operandsJI hrdv
  · exact wordOfFields_of_noOperand hrdn
  · exact wordOfFields_of_noOperand hstat
  · exact wordOfFields_of_noOperand hrel
  · exact wordOfOpRest_fields w

/-- What `decode` keeps of an illegal word. -/
theorem fields_of_decode_illegal {w : Word} {op : BitVec 4} {rest : BitVec 28} (h : decode w = .illegal op rest) :
    op = fieldOp w ∧ rest = fieldRest w := by
  have hkeep := decode_eq_illegal (unusedBits_of_decode_illegal h)
  exact Instr.illegal.inj (h.symm.trans hkeep)

theorem decode_wellFormed (w : Word) : (decode w).wellFormed = true := by
  cases hd : decode w with
  | illegal op rest =>
    obtain ⟨rfl, rfl⟩ := fields_of_decode_illegal hd
    exact (wellFormed_illegal_iff w).mpr (unusedBits_of_decode_illegal hd)
  | _ => rfl

/-- Settles O2: every branch of `decode` keeps the fields that are not zero. -/
theorem encodeOfDecodeIsIdentity : Obligations.EncodeOfDecodeIsIdentity := fun w => ⟨decode_wellFormed w, encode_decode w⟩

theorem eq_encode_iff {w : Word} {i : Instr} (h : i.wellFormed = true) : w = encode i ↔ decode w = i := by
  constructor
  · rintro rfl
    exact decode_encode h
  · rintro rfl
    exact (encode_decode w).symm

/-- Settles O4: each word is the encoding of its command. -/
theorem specWordsDecode : Obligations.SpecWordsDecode := by
  refine ⟨?_, ?_, ?_, ?_, ?_, ?_, ?_, ?_, ?_, ?_⟩ <;> exact (eq_encode_iff rfl).mp rfl

/-! ## The opcode table's match and mask columns (R63) -/

theorem word_eq_iff_fields (w w' : Word) :
    w = w' ↔ fieldOp w = fieldOp w' ∧ fieldI w = fieldI w' ∧ fieldZ w = fieldZ w' ∧ fieldJ w = fieldJ w' := by
  constructor
  · rintro rfl
    exact ⟨rfl, rfl, rfl, rfl⟩
  · rintro ⟨hop, hi, hz, hj⟩
    rw [← wordOfFields_fields w, hop, hi, hz, hj, wordOfFields_fields]

/-- A match under a mask, field by field. -/
theorem and_eq_iff_fields (w mask pattern : Word) : w &&& mask = pattern ↔
    fieldOp w &&& fieldOp mask = fieldOp pattern ∧ fieldI w &&& fieldI mask = fieldI pattern ∧
      fieldZ w &&& fieldZ mask = fieldZ pattern ∧ fieldJ w &&& fieldJ mask = fieldJ pattern := by
  simp only [word_eq_iff_fields (w &&& mask), fieldOp, fieldI, fieldZ, fieldJ, BitVec.extractLsb'_and]

/-- A row whose mask is all ones. -/
theorem selects_noOperand_iff {i : Instr} {w pattern : Word} (h : i.wellFormed = true) (hp : encode i = pattern) :
    w &&& 0xFFFFFFFF#32 = pattern ↔ decode w = i := by
  rw [show 0xFFFFFFFF#32 = BitVec.allOnes 32 from rfl, BitVec.and_allOnes, ← hp, eq_encode_iff h]

/-- A row whose mask leaves J out. -/
theorem selects_operandJ_iff {w pattern : Word} (hi : fieldI pattern = 0#6) (hz : fieldZ pattern = 0#6)
    (hj : fieldJ pattern = 0#16) :
    w &&& 0xFFFF0000#32 = pattern ↔ fieldOp w = fieldOp pattern ∧ fieldI w = 0#6 ∧ fieldZ w = 0#6 := by
  have hmask : fieldOp 0xFFFF0000#32 = BitVec.allOnes 4 ∧ fieldI 0xFFFF0000#32 = BitVec.allOnes 6 ∧
    fieldZ 0xFFFF0000#32 = BitVec.allOnes 6 ∧ fieldJ 0xFFFF0000#32 = 0#16 := by decide
  obtain ⟨hop, hmi, hmz, hmj⟩ := hmask
  rw [and_eq_iff_fields, hop, hmi, hmz, hmj, hi, hz, hj]
  simp only [BitVec.and_allOnes, BitVec.and_zero, and_true]

theorem selects_cfg_iff (w : Word) : w &&& 0xFFFF0000#32 = 0x10000000#32 ↔ ∃ d, decode w = .cfg d := by
  rw [selects_operandJ_iff (by decide) (by decide) (by decide)]
  constructor
  · rintro ⟨hop, hi, hz⟩
    exact ⟨_, decode_of_op1 hop hi hz⟩
  · rintro ⟨d, h⟩
    rw [(eq_encode_iff rfl).mpr h]
    exact ⟨fieldOp_wordOfFields _ _ _ _, fieldI_wordOfFields _ _ _ _, fieldZ_wordOfFields _ _ _ _⟩

theorem selects_rdx_iff (w : Word) : w &&& 0xFFFF0000#32 = 0x30000000#32 ↔ ∃ j, decode w = .rdx j := by
  rw [selects_operandJ_iff (by decide) (by decide) (by decide)]
  constructor
  · rintro ⟨hop, hi, hz⟩
    exact ⟨_, decode_of_op3 hop hi hz⟩
  · rintro ⟨j, h⟩
    rw [(eq_encode_iff rfl).mpr h]
    exact ⟨fieldOp_wordOfFields _ _ _ _, fieldI_wordOfFields _ _ _ _, fieldZ_wordOfFields _ _ _ _⟩

theorem selects_rdv_iff (w : Word) : w &&& 0xF03F0000#32 = 0x40000000#32 ↔ ∃ j i, decode w = .rdv j i := by
  have hmask : fieldOp 0xF03F0000#32 = BitVec.allOnes 4 ∧ fieldI 0xF03F0000#32 = 0#6 ∧
    fieldZ 0xF03F0000#32 = BitVec.allOnes 6 ∧ fieldJ 0xF03F0000#32 = 0#16 := by decide
  obtain ⟨hmop, hmi, hmz, hmj⟩ := hmask
  rw [and_eq_iff_fields, hmop, hmi, hmz, hmj, BitVec.and_allOnes, BitVec.and_allOnes, BitVec.and_zero, BitVec.and_zero]
  constructor
  · rintro ⟨hop, -, hz, -⟩
    exact ⟨_, _, decode_of_op4 hop hz⟩
  · rintro ⟨j, i, h⟩
    rw [(eq_encode_iff rfl).mpr h]
    exact ⟨fieldOp_wordOfFields _ _ _ _, rfl, fieldZ_wordOfFields _ _ _ _, rfl⟩

theorem selects_reserved_iff (w : Word) : w &&& 0x80000000#32 = 0x80000000#32 ↔ 8 ≤ (decode w).opcode.toNat := by
  have hmask : fieldOp 0x80000000#32 = 8#4 ∧ fieldI 0x80000000#32 = 0#6 ∧ fieldZ 0x80000000#32 = 0#6 ∧
    fieldJ 0x80000000#32 = 0#16 := by decide
  have htop : ∀ op : BitVec 4, op &&& 8#4 = 8#4 ↔ 8 ≤ op.toNat := by decide
  obtain ⟨hop, hi, hz, hj⟩ := hmask
  rw [and_eq_iff_fields, hop, hi, hz, hj, opcode_decode, htop]
  simp

/-- The mnemonics of R63's rows for a decoded command. -/
def tableMnemonics : Instr → List String
  | .illegal op _ => if 8 ≤ op.toNat then ["(reserved)"] else []
  | i => [i.mnemonic]

theorem selectedMnemonics_eq (w : Word) : selectedMnemonics w = tableMnemonics (decode w) := by
  have hnop : w &&& 0xFFFFFFFF#32 = 0x00000000#32 ↔ decode w = .nop := selects_noOperand_iff rfl rfl
  have hdraw : w &&& 0xFFFFFFFF#32 = 0x20000000#32 ↔ decode w = .draw := selects_noOperand_iff rfl rfl
  have hrdn : w &&& 0xFFFFFFFF#32 = 0x50000000#32 ↔ decode w = .rdn := selects_noOperand_iff rfl rfl
  have hstat : w &&& 0xFFFFFFFF#32 = 0x60000000#32 ↔ decode w = .stat := selects_noOperand_iff rfl rfl
  have hrel : w &&& 0xFFFFFFFF#32 = 0x70000000#32 ↔ decode w = .rel := selects_noOperand_iff rfl rfl
  cases hd : decode w <;>
    simp [selectedMnemonics, opcodeTable, List.filter_cons, hnop, hdraw, hrdn, hstat, hrel, selects_cfg_iff,
      selects_rdx_iff, selects_rdv_iff, selects_reserved_iff, hd, tableMnemonics, Instr.mnemonic, Instr.opcode,
      apply_ite (List.map OpcodeRow.mnemonic)]

/-- Settles O3: each row's condition is the decoding condition of its command, and the reserved row's is OP >= 8. -/
theorem opcodeTableSelectsDecodedRow : Obligations.OpcodeTableSelectsDecodedRow := by
  intro w
  rw [selectedMnemonics_eq]
  refine ⟨fun h => ?_, fun op rest h hop => ?_, fun op rest h hop => ?_⟩
  · cases hd : decode w with
    | illegal op rest => exact absurd hd (h op rest)
    | _ => rfl
  · rw [h, tableMnemonics, if_pos hop]
  · rw [h, tableMnemonics, if_neg (Nat.not_le.mpr hop)]

/-! ## The byte bridge (20_memory.md R47) -/

theorem wordOfBytes_bridgeBytes (w : Word) :
    wordOfBytes (w.extractLsb' 0 8) (w.extractLsb' 8 8) (w.extractLsb' 16 8) (w.extractLsb' 24 8) = w := by
  unfold wordOfBytes
  ext k hk
  by_cases h8 : k < 8
  · simp [hk, h8, show k < 16 by omega, show k < 24 by omega]
  · by_cases h16 : k < 16
    · simp [hk, h8, h16, show k < 24 by omega, show k - 8 < 8 by omega, show 8 + (k - 8) = k by omega]
    · by_cases h24 : k < 24
      · simp [hk, h8, h16, h24, show ¬ k - 8 < 8 by omega, show k - 16 < 8 by omega, show 16 + (k - 16) = k by omega]
      · simp [hk, h8, h16, h24, show ¬ k - 8 < 8 by omega, show ¬ k - 16 < 8 by omega, show k - 24 < 8 by omega,
          show 24 + (k - 24) = k by omega]

theorem decodeBytes_bridgeBytes (w : Word) (later : List Byte) :
    decodeBytes (bridgeBytes w ++ later) = .ok (decode w, later) := by
  simp only [bridgeBytes, List.cons_append, List.nil_append, decodeBytes, wordOfBytes_bridgeBytes]

theorem bridgeBytes_getElem? (w : Word) {i : Nat} (h : i < 4) : (bridgeBytes w)[i]? = some (w.extractLsb' (8 * i) 8) := by
  interval_cases i <;> rfl

theorem decodeBytes_short {bytes : List Byte} (h : bytes.length < 4) : decodeBytes bytes = .error .truncatedWord := by
  rw [decodeBytes]
  rintro b0 b1 b2 b3 rest rfl
  simp only [List.length_cons] at h
  omega

/-- Settles O5: byte i is bits 8i to 8i + 7, and the four put together again are the word. -/
theorem byteBridgeIsLittleEndian : Obligations.ByteBridgeIsLittleEndian := by
  refine ⟨decodeBytes_bridgeBytes, fun w i hi => ⟨_, bridgeBytes_getElem? w hi, ?_⟩, fun _ => decodeBytes_short⟩
  rw [BitVec.extractLsb'_toNat, Nat.shiftRight_eq_div_pow, Nat.pow_mul]

/-! ## The assembler (R70) -/

/-- A word's value from its fields. -/
theorem toNat_eq_fields (w : Word) : w.toNat =
    (fieldOp w).toNat * 2 ^ 28 + (fieldI w).toNat * 2 ^ 22 + (fieldZ w).toNat * 2 ^ 16 + (fieldJ w).toNat := by
  simp only [fieldOp, fieldI, fieldZ, fieldJ, BitVec.extractLsb'_toNat, Nat.shiftRight_eq_div_pow]
  omega

theorem toNat_wordOfFields (op : BitVec 4) (i z : BitVec 6) (j : BitVec 16) :
    (wordOfFields op i z j).toNat = op.toNat * 2 ^ 28 + i.toNat * 2 ^ 22 + z.toNat * 2 ^ 16 + j.toNat := by
  rw [toNat_eq_fields, fieldOp_wordOfFields, fieldI_wordOfFields, fieldZ_wordOfFields, fieldJ_wordOfFields]

namespace Machine

theorem assemble_cfg {d : Nat} (h : d < 2 ^ 16) : assemble (.cfg d) = .ok (encode (.cfg (BitVec.ofNat 16 d))) := if_pos h

theorem assemble_rdx {j : Nat} (h : j < 2 ^ 16) : assemble (.rdx j) = .ok (encode (.rdx (BitVec.ofNat 16 j))) := if_pos h

theorem assemble_rdv {j i : Nat} (hj : j < 2 ^ 16) (hi : i < 2 ^ 6) :
    assemble (.rdv j i) = .ok (encode (.rdv (BitVec.ofNat 16 j) (BitVec.ofNat 6 i))) := if_pos ⟨hj, hi⟩

theorem assemble_rdv_refused {j i : Nat} (h : 2 ^ 16 ≤ j ∨ 2 ^ 6 ≤ i) :
    assemble (.rdv j i) = .error .operandTooWide := if_neg (by omega)

/-- Settles O6: an operand below 2^16 or 2^6 is the value of its field, and no other field overlaps it. -/
theorem assemblerEncodesOrRefuses : Obligations.AssemblerEncodesOrRefuses := by
  refine ⟨rfl, rfl, rfl, rfl, rfl, fun d hd => ⟨_, assemble_cfg hd, ?_, decode_encode rfl⟩,
    fun j hj => ⟨_, assemble_rdx hj, ?_, decode_encode rfl⟩,
    fun j i hj hi => ⟨_, assemble_rdv hj hi, ?_, decode_encode rfl⟩, fun w hw => if_pos hw,
    fun d hd => ⟨if_neg (Nat.not_lt.mpr hd), if_neg (Nat.not_lt.mpr hd), fun i => assemble_rdv_refused (.inl hd)⟩,
    fun j i hi => assemble_rdv_refused (.inr hi), fun w hw => if_neg (Nat.not_lt.mpr hw)⟩
  all_goals
    rw [encode, toNat_wordOfFields]
    simp only [BitVec.toNat_ofNat]
    omega

end Machine

end Sys2Proof
end

section
/-! Commands in every state: CFG in range (40_construct.md R87), RDV of the builder's word, the observers, who writes
the engine, and that no unspecified cell is shown (10_state.md R27, R28). -/

namespace Sys2Proof.Machine

/-! ## CFG -/

theorem construct_reply (s : State) (d : BitVec 16) :
    Reply s ((s.construct d).respond 0x1#4 []) [0x00001000#32] s.lastErr :=
  ⟨rfl, rfl, ⟨rfl, rfl, rfl, rfl, rfl⟩⟩

theorem construct_readV (s : State) {d : BitVec 16} (hm : d.toNat ≤ s.cfg.maxDim) {j i : Nat} (hj : j < d.toNat)
    (h1 : 1 ≤ i) (h32 : i ≤ 32) : (buildRow s.cfg j)[i - 1]? = some ((s.construct d).readV j i) :=
  readV_of_matrix (s := s.construct d) rfl hm hj h1 h32

theorem decode_cfg_word (d : BitVec 16) : decode (0x10000000#32 ||| d.setWidth 32) = .cfg d := by
  rw [show 0x10000000#32 ||| d.setWidth 32 = encode (.cfg d) by simp [encode, wordOfFields], decode_encode rfl]

/-- Settles O30: `construct` lists the words of BUILD(d) and zeros, and `respond` answers. -/
theorem cfgConstructsEngine : Obligations.CfgConstructsEngine := by
  refine ⟨fun d s h0 hm => ⟨_, exec_cfg_constructs h0 hm, construct_reply s d, rfl, rfl, rfl, fun j hj => ?_, ?_, ?_, ?_⟩,
    decode_cfg_word, fun w hop h => ?_⟩
  · exact ⟨s.construct_readX hj, List.getElem?_replicate_of_lt hj, fun i h1 h32 => construct_readV s hm hj h1 h32⟩
  · exact build_length s.cfg d.toNat
  · exact List.length_replicate
  · exact List.length_replicate
  · have hunused : fieldZ w ≠ 0#6 ∨ (fieldOp w ≠ 0x4#4 ∧ fieldI w ≠ 0#6) :=
      h.symm.imp_right fun hi => ⟨by simp [hop], hi⟩
    exact rejectedAsIllegal_of_decode (decode_eq_illegal (.inr (hunused.imp_right .inl)))

/-! ## RDV on a consistent state -/

/-- Settles O47: V is BUILD(DIM), and DIM is at most MAX_DIM. -/
theorem rdvReturnsBuilderWord : Obligations.RdvReturnsBuilderWord := by
  intro j i s hl hs hne hj h1 h32
  obtain ⟨-, hmax⟩ := hl.dimInRange hne
  have hreply : Reply s (s.respond 0x4#4 [s.readV j.toNat i.toNat]) [0x00014000#32, s.readV j.toNat i.toNat] s.lastErr :=
    respond_reply respWord_rdv
  exact ⟨_, _, exec_rdv_reads hne hj h1 h32, hreply.rsp, readV_of_matrix hs.matrix hmax hj h1 h32⟩

/-! ## Observers -/

/-- In `s` the command leaves the engine and the outside, and answers the same again. -/
def Repeats (i : Instr) (s : State) : Prop :=
  ∃ t u words, exec i s = .next t ∧ Reply s t words t.lastErr ∧ SameEngine s t ∧
    exec i t = .next u ∧ Reply t u words t.lastErr ∧ SameEngine t u

theorem repeats_of_raise {i : Instr} {s : State} {op : BitVec 4} {code : StatusCode}
    (h : exec i s = .next (s.raise op code))
    (h' : exec i (s.raise op code) = .next ((s.raise op code).raise op code)) : Repeats i s :=
  ⟨_, _, _, h, raise_reply s op code, raise_sameEngine s op code, h', raise_reply _ op code, raise_sameEngine _ op code⟩

theorem repeats_of_respond {i : Instr} {s : State} {op : BitVec 4} {data : List Word}
    (h : exec i s = .next (s.respond op data))
    (h' : exec i (s.respond op data) = .next ((s.respond op data).respond op data)) : Repeats i s :=
  ⟨_, _, _, h, respond_reply rfl, respond_sameEngine s op data, h', respond_reply rfl, respond_sameEngine _ op data⟩

theorem repeats_rdx (j : BitVec 16) (s : State) : Repeats (.rdx j) s := by
  by_cases hs : s.state = .empty
  · exact repeats_of_raise (exec_rdx_empty j hs) (exec_rdx_empty j hs)
  · by_cases hj : j.toNat < s.dim.toNat
    · exact repeats_of_respond (exec_rdx_reads hs hj) (exec_rdx_reads (s := s.respond _ _) hs hj)
    · have hout := Nat.not_lt.mp hj
      exact repeats_of_raise (exec_rdx_out_of_range hs hout) (exec_rdx_out_of_range (s := s.raise _ _) hs hout)

theorem repeats_rdv (j : BitVec 16) (i : BitVec 6) (s : State) : Repeats (.rdv j i) s := by
  by_cases hs : s.state = .empty
  · exact repeats_of_raise (exec_rdv_empty j i hs) (exec_rdv_empty j i hs)
  · by_cases hout : s.dim.toNat ≤ j.toNat ∨ i.toNat = 0 ∨ 32 < i.toNat
    · exact repeats_of_raise (exec_rdv_out_of_range hs hout) (exec_rdv_out_of_range (s := s.raise _ _) hs hout)
    · have hin : j.toNat < s.dim.toNat ∧ 1 ≤ i.toNat ∧ i.toNat ≤ 32 := by omega
      obtain ⟨hj, h1, h32⟩ := hin
      exact repeats_of_respond (exec_rdv_reads hs hj h1 h32) (exec_rdv_reads (s := s.respond _ _) hs hj h1 h32)

theorem repeats_rdn (s : State) : Repeats .rdn s := by
  by_cases hs : s.state = .empty
  · exact repeats_of_raise (exec_rdn_empty hs) (exec_rdn_empty (s := s.raise _ _) hs)
  · exact repeats_of_respond (exec_rdn_reads hs) (exec_rdn_reads (s := s.respond _ _) hs)

/-- Settles O50: neither `respond` nor `raise` writes what decides an observer's answer (STAT, which shows LAST_ERR,
only responds). -/
theorem observersAreRepeatable : Obligations.ObserversAreRepeatable := by
  rintro i s (rfl | ⟨j, rfl⟩ | ⟨j, col, rfl⟩ | rfl | rfl)
  · exact repeats_of_respond (exec_nop s) (exec_nop _)
  · exact repeats_rdx j s
  · exact repeats_rdv j col s
  · exact repeats_rdn s
  · exact repeats_of_respond (data := [statusWord s, capsWord s.cfg]) rfl rfl

/-! ## Who writes the engine -/

/-- A command other than CFG and REL leaves the whole engine, or is DRAW, which leaves DIM and V. -/
theorem exec_writes {i : Instr} {s t : State} (h : exec i s = .next t) : SameEngine s t ∨
    (i = .draw ∧ t.dim = s.dim ∧ ∀ j col, t.readV j col = s.readV j col) ∨ (∃ d, i = .cfg d) ∨ i = .rel := by
  obtain ⟨code, -, rfl⟩ | ⟨rfl, -, -, rfl⟩ | ⟨data, -, rfl⟩ | ⟨d, rfl, -, -, -⟩ | ⟨rfl, -, -, rfl⟩ | ⟨rfl, -⟩ :=
    exec_cases h
  · exact .inl (raise_sameEngine s _ code)
  · exact .inr (.inl ⟨rfl, rfl, fun _ _ => rfl⟩)
  · exact .inl (respond_sameEngine s _ data)
  · exact .inr (.inr (.inl ⟨d, rfl⟩))
  · exact .inr (.inl ⟨rfl, rfl, fun _ _ => rfl⟩)
  · exact .inr (.inr (.inr rfl))

/-- Settles O51: `exec_writes` leaves CFG and REL for DIM and V, and DRAW besides for STATE, N and X. -/
theorem engineWrittenOnlyByItsCommands : Obligations.EngineWrittenOnlyByItsCommands := by
  intro i s t h
  obtain hsame | ⟨hdraw, hdim, hv⟩ | hwriter := exec_writes h
  · exact ⟨absurd hsame.state, absurd hsame.dim, absurd hsame.n, fun ⟨j, col, hne⟩ => absurd (hsame.readV_eq j col) hne,
      fun ⟨j, hne⟩ => absurd (hsame.readX_eq j) hne⟩
  · exact ⟨fun _ => .inr (.inl hdraw), absurd hdim, fun _ => .inr (.inl hdraw),
      fun ⟨j, col, hne⟩ => absurd (hv j col) hne, fun _ => .inr (.inl hdraw)⟩
  · have hany : (∃ d, i = .cfg d) ∨ i = .draw ∨ i = .rel := hwriter.imp_right .inr
    exact ⟨fun _ => hany, fun _ => hwriter, fun _ => hany, fun _ => hwriter, fun _ => hany⟩

/-! ## Unspecified cells -/

namespace SameReadable

variable {s s' : State} (h : SameReadable s s')
include h

theorem respond (op : BitVec 4) (data : List Word) : SameReadable (s.respond op data) (s'.respond op data) :=
  ⟨h.cfg, h.state, h.dim, h.n, h.lastErr, by rw [State.respond_rsp, State.respond_rsp, h.rsp], h.cells, h.point⟩

theorem raise (op : BitVec 4) (code : StatusCode) : SameReadable (s.raise op code) (s'.raise op code) :=
  ⟨h.cfg, h.state, h.dim, h.n, rfl, by rw [State.raise_rsp, State.raise_rsp, h.rsp], h.cells, h.point⟩

theorem exhaust : SameReadable s.exhaust s'.exhaust :=
  ⟨h.cfg, rfl, h.dim, h.n, h.lastErr, h.rsp, h.cells, h.point⟩

/-- Every cell in range is written, so nothing of the old stores is left. -/
theorem construct {d : BitVec 16} (hm : d.toNat ≤ s.cfg.maxDim) : SameReadable (s.construct d) (s'.construct d) where
  cfg := h.cfg
  state := rfl
  dim := rfl
  n := rfl
  lastErr := h.lastErr
  rsp := h.rsp
  cells j hj i h1 h32 := by
    have hcell := construct_readV s hm hj h1 h32
    have hcell' := construct_readV s' (h.cfg ▸ hm) hj h1 h32
    rw [h.cfg, hcell] at hcell'
    exact (Option.some.inj hcell').symm
  point j hj := (s'.construct_readX hj).trans (s.construct_readX hj).symm

/-- A new word is made of a readable word and a readable cell: the selector stays in [1, 32]. -/
theorem newWord (hn : s.n ≠ 0xFFFFFFFF#32) {j : Nat} (hj : j < s.dim.toNat) : s'.newWord j = s.newWord j := by
  rw [State.newWord, State.newWord, h.point j hj, h.n, h.cells j hj _ (one_le_rzb s.n) ((rzb_le_iff s.n).mpr hn)]

theorem newPoint (hn : s.n ≠ 0xFFFFFFFF#32) : s'.newPoint = s.newPoint := by
  rw [State.newPoint, State.newPoint, h.dim]
  exact List.map_congr_left fun j hj => h.newWord hn (List.mem_range.mp hj)

theorem advance (hn : s.n ≠ 0xFFFFFFFF#32) : SameReadable s.advance s'.advance where
  cfg := h.cfg
  state := h.state
  dim := h.dim
  n := congrArg (· + 1#32) h.n
  lastErr := h.lastErr
  rsp := h.rsp
  cells := h.cells
  point j hj := by
    have hj' : j < s'.dim.toNat := h.dim ▸ hj
    rw [s.advance_readX hj, s'.advance_readX hj', h.newWord hn hj]

theorem release : SameReadable s.release s'.release where
  cfg := h.cfg
  state := rfl
  dim := rfl
  n := rfl
  lastErr := h.lastErr
  rsp := h.rsp
  cells _ hj := absurd hj (Nat.not_lt_zero _)
  point _ hj := absurd hj (Nat.not_lt_zero _)

end SameReadable

/-- Both states complete the command, and agree again on what is readable. -/
def AnswersAlike (i : Instr) (s s' : State) : Prop :=
  ∃ t t', exec i s = .next t ∧ exec i s' = .next t' ∧ SameReadable t t'

theorem answersAlike_draw {s s' : State} (h : SameReadable s s') : AnswersAlike .draw s s' := by
  cases hs : s.state with
  | empty => exact ⟨_, _, exec_draw_empty hs, exec_draw_empty (h.state.trans hs), h.raise _ _⟩
  | exhausted => exact ⟨_, _, exec_draw_exhausted hs, exec_draw_exhausted (h.state.trans hs), h.raise _ _⟩
  | ready =>
    have hs' := h.state.trans hs
    by_cases hn : s.n = 0xFFFFFFFF#32
    · exact ⟨_, _, exec_draw_exhausts hs hn, exec_draw_exhausts hs' (h.n.trans hn), h.exhaust.raise _ _⟩
    · refine ⟨_, _, exec_draw_advances hs hn, exec_draw_advances hs' (h.n ▸ hn), ?_⟩
      rw [h.newPoint hn]
      exact (h.advance hn).respond _ _

theorem answersAlike_rdx {s s' : State} (h : SameReadable s s') (j : BitVec 16) : AnswersAlike (.rdx j) s s' := by
  by_cases hs : s.state = .empty
  · exact ⟨_, _, exec_rdx_empty j hs, exec_rdx_empty j (h.state.trans hs), h.raise _ _⟩
  · have hs' : s'.state ≠ .empty := h.state ▸ hs
    by_cases hj : j.toNat < s.dim.toNat
    · refine ⟨_, _, exec_rdx_reads hs hj, exec_rdx_reads hs' (h.dim ▸ hj), ?_⟩
      rw [h.point _ hj]
      exact h.respond _ _
    · have hout := Nat.not_lt.mp hj
      exact ⟨_, _, exec_rdx_out_of_range hs hout, exec_rdx_out_of_range hs' (h.dim ▸ hout), h.raise _ _⟩

theorem answersAlike_rdv {s s' : State} (h : SameReadable s s') (j : BitVec 16) (i : BitVec 6) :
    AnswersAlike (.rdv j i) s s' := by
  by_cases hs : s.state = .empty
  · exact ⟨_, _, exec_rdv_empty j i hs, exec_rdv_empty j i (h.state.trans hs), h.raise _ _⟩
  · have hs' : s'.state ≠ .empty := h.state ▸ hs
    by_cases hout : s.dim.toNat ≤ j.toNat ∨ i.toNat = 0 ∨ 32 < i.toNat
    · exact ⟨_, _, exec_rdv_out_of_range hs hout, exec_rdv_out_of_range hs' (h.dim ▸ hout), h.raise _ _⟩
    · have hin : j.toNat < s.dim.toNat ∧ 1 ≤ i.toNat ∧ i.toNat ≤ 32 := by omega
      obtain ⟨hj, h1, h32⟩ := hin
      refine ⟨_, _, exec_rdv_reads hs hj h1 h32, exec_rdv_reads hs' (h.dim ▸ hj) h1 h32, ?_⟩
      rw [h.cells _ hj _ h1 h32]
      exact h.respond _ _

theorem answersAlike {s s' : State} (h : SameReadable s s') (i : Instr) : AnswersAlike i s s' := by
  cases i with
  | nop => exact ⟨_, _, exec_nop s, exec_nop s', h.respond _ _⟩
  | cfg d =>
    by_cases hd : d = 0#16 ∨ s.cfg.maxDim < d.toNat
    · exact ⟨_, _, exec_cfg_rejects hd, exec_cfg_rejects (h.cfg ▸ hd), h.raise _ _⟩
    · obtain ⟨h0, hm⟩ := not_or.mp hd
      have hm := Nat.not_lt.mp hm
      exact ⟨_, _, exec_cfg_constructs h0 hm, exec_cfg_constructs h0 (h.cfg ▸ hm), (h.construct hm).respond _ _⟩
  | draw => exact answersAlike_draw h
  | rdx j => exact answersAlike_rdx h j
  | rdv j i => exact answersAlike_rdv h j i
  | rdn =>
    by_cases hs : s.state = .empty
    · exact ⟨_, _, exec_rdn_empty hs, exec_rdn_empty (h.state.trans hs), h.raise _ _⟩
    · refine ⟨_, _, exec_rdn_reads hs, exec_rdn_reads (h.state ▸ hs), ?_⟩
      rw [h.n]
      exact h.respond _ _
  | stat =>
    have hstatus : statusWord s' = statusWord s := by rw [statusWord, statusWord, h.dim, h.lastErr, h.state]
    refine ⟨s.respond 0x6#4 [statusWord s, capsWord s.cfg], s'.respond 0x6#4 [statusWord s', capsWord s'.cfg], rfl, rfl, ?_⟩
    rw [hstatus, h.cfg]
    exact h.respond _ _
  | rel => exact ⟨_, _, exec_rel s, exec_rel s', h.release.respond _ _⟩
  | illegal op rest => exact ⟨_, _, exec_illegal op rest s, exec_illegal op rest s', h.raise _ _⟩

/-- Settles O52: every operation a command is made of keeps the agreement, and every branch it takes and word it answers
is read off what the states agree on. -/
theorem unspecifiedCellsAreNeverShown : Obligations.UnspecifiedCellsAreNeverShown := by
  intro i s s' t t' h ht ht'
  obtain ⟨u, u', hu, hu', hsame⟩ := answersAlike h i
  obtain rfl : u = t := Host.Outcome.next.inj (hu.symm.trans ht)
  obtain rfl : u' = t' := Host.Outcome.next.inj (hu'.symm.trans ht')
  exact hsame

end Sys2Proof.Machine
end

section
/-! Admission of a configuration (00_scope.md R6, 20_memory.md R42), and the seeds it makes fit their columns
(40_construct.md R82). -/

namespace Sys2Proof

theorem seedsBounded_iff (start : Nat) (seeds : List Nat) : seedsBounded start seeds = true ↔
    ∀ k m, seeds[k]? = some m → 1 ≤ m ∧ m < 2 ^ (start + k) := by
  induction seeds generalizing start with
  | nil => simp [seedsBounded]
  | cons seed seeds ih =>
    rw [seedsBounded, Bool.and_eq_true, Bool.and_eq_true, decide_eq_true_eq, decide_eq_true_eq, ih]
    constructor
    · rintro ⟨hseed, hrest⟩ k m hk
      cases k with
      | zero =>
        obtain rfl : seed = m := by simpa using hk
        exact hseed
      | succ k => simpa only [Nat.add_assoc, Nat.add_comm 1 k] using hrest k m (by simpa using hk)
    · exact fun h => ⟨h 0 seed rfl, fun k m hk => by
        simpa only [Nat.add_assoc, Nat.add_comm 1 k] using h (k + 1) m (by simpa using hk)⟩

/-- The four conditions of R42. -/
theorem DntEntry.wellFormed_iff (e : DntEntry) : e.wellFormed = true ↔
    1 ≤ e.s ∧ e.s ≤ 32 ∧ e.a < 2 ^ (e.s - 1) ∧ e.m.length = e.s ∧
      ∀ i, 1 ≤ i → i ≤ e.s → ∃ m, e.m[i - 1]? = some m ∧ 1 ≤ m ∧ m < 2 ^ i := by
  simp only [DntEntry.wellFormed, Bool.and_eq_true, decide_eq_true_eq, and_assoc, seedsBounded_iff]
  refine and_congr_right fun _ => and_congr_right fun _ => and_congr_right fun _ => and_congr_right fun hlen => ?_
  constructor
  · intro h i h1 hi
    have hget : e.m[i - 1]? = some e.m[i - 1] := List.getElem?_eq_getElem (by omega)
    exact ⟨_, hget, by simpa only [Nat.add_sub_cancel' h1] using h (i - 1) _ hget⟩
  · intro h k m hk
    have hlt := (List.getElem?_eq_some_iff.mp hk).1
    obtain ⟨m', hk', hm'⟩ := h (k + 1) (by omega) (by omega)
    obtain rfl : m = m' := Option.some.inj (hk.symm.trans hk')
    rwa [Nat.add_comm 1 k]

theorem Params.admitted_iff (p : Params) : p.admitted = true ↔
    1 ≤ p.maxDim ∧ p.maxDim ≤ 65535 ∧
      ∀ j, 1 ≤ j → j < p.maxDim → ∃ e, p.dnt[j - 1]? = some e ∧ e.wellFormed = true := by
  constructor
  · intro h
    obtain ⟨h1, hmax, -⟩ := Machine.admitted_bounds ⟨p, h⟩
    refine ⟨h1, hmax, fun j hj1 hj => ?_⟩
    obtain ⟨e, he, hwf⟩ := Machine.romEntry_admitted ⟨p, h⟩ hj1 hj
    rw [Machine.romEntry, if_neg (by omega)] at he
    exact ⟨e, he, hwf⟩
  · rintro ⟨h1, hmax, hentries⟩
    have hlen : p.maxDim - 1 ≤ p.dnt.length := by
      by_contra hshort
      obtain ⟨e, he, -⟩ := hentries (p.maxDim - 1) (by omega) (by omega)
      have := (List.getElem?_eq_some_iff.mp he).1
      omega
    simp only [Params.admitted, Bool.and_eq_true, decide_eq_true_eq, List.all_eq_true]
    refine ⟨⟨⟨h1, hmax⟩, hlen⟩, fun e he => ?_⟩
    obtain ⟨k, hk, rfl⟩ := List.mem_take_iff_getElem.mp he
    obtain ⟨e', he', hwf⟩ := hentries (k + 1) (by omega) (by omega)
    obtain rfl : p.dnt[k] = e' := Option.some.inj ((List.getElem?_eq_getElem _).symm.trans he')
    exact hwf

/-- Settles O7: `ofParams` tests `admitted`, which is R6 with R42 entry by entry. -/
theorem configurationAdmittedExactly : Obligations.ConfigurationAdmittedExactly := by
  intro p
  simp only [← DntEntry.wellFormed_iff, ← Params.admitted_iff]
  refine ⟨fun h => ⟨⟨p, h⟩, dif_pos h, rfl⟩, fun c hc => ?_⟩
  by_contra h
  simp [Config.ofParams, h] at hc

namespace Machine

/-! ## The seed columns -/

/-- The recurrence only adds columns behind the seeds. -/
theorem tableRow_seeds (e : DntEntry) : ∃ added, tableRow e = seedColumns e ++ added := by
  obtain ⟨added, -, h⟩ := extendRow_suffix e (32 - e.s) (seedColumns e).reverse
  exact ⟨added.reverse, by rw [tableRow, h, List.reverse_append, List.reverse_reverse]⟩

theorem tableRow_seed {e : DntEntry} {i m : Nat} (h1 : 1 ≤ i) (hi : i ≤ e.s) (hm : e.m[i - 1]? = some m) :
    (tableRow e)[i - 1]? = some (BitVec.ofNat 32 m <<< (32 - i)) := by
  obtain ⟨added, hrow⟩ := tableRow_seeds e
  have hlt : i - 1 < (seedColumns e).length := by rw [seedColumns_length]; omega
  rw [hrow, List.getElem?_append_left hlt]
  simp [seedColumns, hm, show i - 1 < e.s by omega, show 1 + (i - 1) = i by omega]

/-- A seed below 2^i loses no bit when its lowest bit moves to bit 32 - i. -/
theorem toNat_seed_shift {i m : Nat} (hi : i ≤ 32) (hm : m < 2 ^ i) :
    (BitVec.ofNat 32 m <<< (32 - i)).toNat = m * 2 ^ (32 - i) := by
  have hfit : m * 2 ^ (32 - i) < 2 ^ 32 := by
    calc m * 2 ^ (32 - i) < 2 ^ i * 2 ^ (32 - i) := Nat.mul_lt_mul_of_pos_right hm (Nat.two_pow_pos _)
      _ = 2 ^ 32 := by rw [← Nat.pow_add, Nat.add_sub_cancel' hi]
  have hm32 : m < 2 ^ 32 := hm.trans_le (Nat.pow_le_pow_right (by omega) hi)
  rw [BitVec.toNat_shiftLeft, BitVec.toNat_ofNat, Nat.mod_eq_of_lt hm32, Nat.shiftLeft_eq, Nat.mod_eq_of_lt hfit]

/-- Settles O27: columns 1 to S are the seeds of a well-formed entry, each below 2^i. -/
theorem builderSeedsLoseNoBits : Obligations.BuilderSeedsLoseNoBits := by
  intro c j h1 hj
  obtain ⟨e, he, hwf⟩ := romEntry_admitted c h1 hj
  obtain ⟨-, hs, -, -, hseeds⟩ := e.wellFormed_iff.mp hwf
  refine ⟨e, he, fun i hi1 hi => ?_⟩
  obtain ⟨m, hm, -, hlt⟩ := hseeds i hi1 hi
  refine ⟨_, m, ?_, hm, rfl, toNat_seed_shift (hi.trans hs) hlt⟩
  rw [buildRow_of_romEntry (by omega) he, tableRow_seed hi1 hi hm]

end Machine

end Sys2Proof
end

section
/-! The host's conversion to binary64 (41_draw.md R105): its pattern, and the number the pattern stands for. -/

namespace Sys2Proof.Machine

/-- `p` is floor(log2 X), and X is a word. -/
theorem exponent_le_31 {w : Word} {p : Nat} (h : 2 ^ p ≤ w.toNat) : p ≤ 31 := by
  have hlt : 2 ^ p < 2 ^ 32 := h.trans_lt w.isLt
  have := (Nat.pow_lt_pow_iff_right (by omega)).mp hlt
  omega

theorem toNat_toBinary64 {w : Word} {p : Nat} (h : 2 ^ p ≤ w.toNat) (h' : w.toNat < 2 ^ (p + 1)) :
    (toBinary64 w).toNat = (991 + p) * 2 ^ 52 + w.toNat * 2 ^ (52 - p) % 2 ^ 52 := by
  have hp := exponent_le_31 h
  have hpos : w.toNat ≠ 0 := (Nat.two_pow_pos p |>.trans_le h).ne'
  have hw : w ≠ 0#32 := fun hz => hpos (congrArg BitVec.toNat hz)
  have hlog : Nat.log2 w.toNat = p := (Nat.log2_eq_iff hpos).mpr ⟨h, h'⟩
  have hf : w.toNat * 2 ^ (52 - p) % 2 ^ 52 < 2 ^ 52 := Nat.mod_lt _ (by omega)
  simp only [toBinary64, if_neg hw, hlog]
  rw [Nat.shiftLeft_eq w.toNat, ← Nat.shiftLeft_add_eq_or_of_lt hf, Nat.shiftLeft_eq,
    BitVec.toNat_ofNat]
  exact Nat.mod_eq_of_lt (by omega)

/-- A normal pattern with sign 0: exponent field `e`, fraction `f`. -/
theorem binary64Value_normal {b : BitVec 64} {e f : Nat} (hb : b.toNat = e * 2 ^ 52 + f) (hf : f < 2 ^ 52) (h0 : 0 < e)
    (he : e < 2047) : binary64Value b = some ((2 ^ 52 + (f : ℚ)) * 2 ^ ((e : ℤ) - 1075)) := by
  have hsign : b.getLsbD 63 = false := Nat.testBit_lt_two_pow (by omega)
  have hexp : (b.extractLsb' 52 11).toNat = e := by
    rw [BitVec.extractLsb'_toNat, hb, Nat.shiftRight_eq_div_pow]
    omega
  have hfrac : (b.extractLsb' 0 52).toNat = f := by
    rw [BitVec.extractLsb'_toNat, hb, Nat.shiftRight_zero]
    omega
  simp only [binary64Value, hsign, hexp, hfrac, if_neg he.ne, if_neg h0.ne', Bool.false_eq_true, if_false, one_mul]

/-- The scaled significand has its leading 1 at bit 52, which the fraction field drops. -/
theorem significand_eq {x p : Nat} (hp : p ≤ 52) (h : 2 ^ p ≤ x) (h' : x < 2 ^ (p + 1)) :
    2 ^ 52 + x * 2 ^ (52 - p) % 2 ^ 52 = x * 2 ^ (52 - p) := by
  have hscale : 2 ^ p * 2 ^ (52 - p) = 2 ^ 52 := by rw [← Nat.pow_add, Nat.add_sub_cancel' hp]
  have hlow : 2 ^ 52 ≤ x * 2 ^ (52 - p) := hscale ▸ Nat.mul_le_mul_right _ h
  have hhigh : x * 2 ^ (52 - p) < 2 * 2 ^ 52 := by
    calc x * 2 ^ (52 - p) < 2 ^ (p + 1) * 2 ^ (52 - p) := Nat.mul_lt_mul_of_pos_right h' (Nat.two_pow_pos _)
      _ = 2 * 2 ^ 52 := by rw [Nat.pow_succ', Nat.mul_assoc, hscale]
  omega

theorem binary64Value_toBinary64 {w : Word} (hw : w ≠ 0#32) : binary64Value (toBinary64 w) = some (coordinate w) := by
  have hpos : w.toNat ≠ 0 := fun h => hw (BitVec.eq_of_toNat_eq h)
  obtain ⟨p, h, h'⟩ : ∃ p, 2 ^ p ≤ w.toNat ∧ w.toNat < 2 ^ (p + 1) :=
    ⟨_, Nat.log2_self_le hpos, Nat.lt_log2_self⟩
  have hp := exponent_le_31 h
  have hsig : (2 : ℚ) ^ 52 + ((w.toNat * 2 ^ (52 - p) % 2 ^ 52 : ℕ) : ℚ) = w.toNat * 2 ^ (52 - p) := by
    exact_mod_cast significand_eq (by omega) h h'
  have hexp : ((52 - p : ℕ) : ℤ) + (((991 + p : ℕ) : ℤ) - 1075) = -(32 : ℕ) := by omega
  rw [binary64Value_normal (toNat_toBinary64 h h') (Nat.mod_lt _ (by omega)) (by omega) (by omega), hsig, mul_assoc,
    ← zpow_natCast (2 : ℚ) (52 - p), ← zpow_add₀ (by norm_num), hexp, zpow_neg, zpow_natCast, ← div_eq_mul_inv]
  rfl

/-- Settles O43: the fraction field drops the leading 1 that the value adds again, and the exponents add up to -32. -/
theorem binary64ConversionIsExact : Obligations.Binary64ConversionIsExact := by
  refine fun w => ⟨?_, fun h => if_pos h, fun p h h' => toNat_toBinary64 h h'⟩
  by_cases hw : w = 0#32
  · subst hw
    simp [toBinary64, binary64Value, coordinate]
  · exact binary64Value_toBinary64 hw

end Sys2Proof.Machine
end
